-- ==== Sys2Proof/Word.lean ====
section
/-! DEFINITION. The words of the register window and the indices of the code array. -/

namespace Sys2Proof

/-- One byte: a code character, a register lane, a table entry (00_scope.md R3, R5; 20_memory.md R61). -/
abbrev Byte := BitVec 8

/-- A 16-bit sum field of D_CHECK or E_INFO (10_state.md R40, R41). -/
abbrev Half := BitVec 16

/-- A 32-bit register, and the data of one bus access (20_memory.md R63). -/
abbrev Word := BitVec 32

/-- A byte offset inside the 256-byte register window (20_memory.md R60): eight bits name exactly the
offsets 0x00..0xFF. -/
abbrev Offset := BitVec 8

/-- A code index 0..18, index 0 being the leftmost character (42_embed.md R140). -/
abbrev Idx := Fin 19

/-- The separator `-` as its ASCII byte (00_scope.md R5; PRESUMED, log 13: the spec takes 0x2D from general
knowledge). -/
abbrev SEP : Byte := 0x2D

end Sys2Proof
end

