-- ==== Sys2Proof/Config.lean ====
section
/-! DEFINITION. What an implementation fixes: the configuration record `Cfg` of 00_scope.md R3, the constant the
device has for it, and the free value of the latch at reset. -/

namespace Sys2Proof

/-- The configuration of one engine (00_scope.md R3). The spec gives no table's contents, so a `Cfg` is a field of
`Machine.State` that no step changes (R6, R301), and a claim over all states is a claim over all configurations.
`P_HM_COUNT` is the length of `hmTable`: the spec calls it "the length of `hardware_model_table`". -/
structure Cfg where
  /-- `P_ALPHABET`: positions 0..31 canonical, 32..34 forward-only (40_alphabet.md R100). -/
  alphabet : Vector Byte 35
  /-- `P_SEED`: one row per last serial digit, one column per code index (41_seed.md R120). -/
  seed : Vector (Vector Nat 19) 10
  /-- `P_MAGIC`, the per-position shift offset (44_shift.md R187). -/
  magic : Vector Byte 19
  /-- `P_SN`: `sn[j]` is the table `sn<j>` (45_serial_normalizer.md R210). -/
  sn : Vector (Vector Byte 10) 4
  /-- `P_SN_MOD` (45_serial_normalizer.md R210). -/
  snMod : Vector Byte 10
  /-- `P_CT_TABLE`, indexed by the code-type id (44_shift.md R180). -/
  ctTable : Vector Byte 4
  /-- `P_HM_TABLE`, indexed by the hardware-model id (44_shift.md R180). -/
  hmTable : List Byte
  /-- `P_HM_MASK`, the field mask of code index 1 (42_embed.md R144). -/
  hmMask : Byte
  /-- `P_CT_CONFIG_ID`, the id of the "configuration" code type (46_commands.md R240). -/
  ctConfigId : Fin 4
  /-- `P_CT_KNOWN`, the code-type values DECODE accepts (46_commands.md R255). -/
  ctKnown : List Nat
  /-- `P_CT_CHECK_INDEX`, the code index the code-type validation reads (46_commands.md R255). -/
  ctCheckIndex : Idx
  /-- `P_CT_CHECK_MASK`, the mask the code-type validation applies (46_commands.md R255). -/
  ctCheckMask : Byte
  /-- `P_BASE`, the platform address of offset 0x00 (20_memory.md R67). -/
  base : Nat
deriving DecidableEq, Repr, Inhabited

/-- `P_HM_COUNT` (00_scope.md R3). -/
abbrev Cfg.hmCount (c : Cfg) : Nat := c.hmTable.length

/-- The command latch `L` (10_state.md R43): a copy of OP and of the input registers. It stands in this file
because its value at reset is a free value of the configuration. -/
structure Latch where
  op : BitVec 2
  serial : Word
  fields : Word
  material : Word
  version : Byte
  key : Word
  code0 : Word
  code1 : Word
  code2 : Word
  code3 : Word
  code4 : BitVec 24
deriving DecidableEq, Repr, Inhabited

/-- The configuration of the device at hand: a constant with no body, so that nothing can evaluate it or prove a
table entry of it (00_scope.md R3; 91_not_in_source.md N2, N3; DESIGN CHOICE, log 5). -/
opaque Config.device : Cfg

/-- What reset number `n` leaves in the latch: "unspecified" (70_reset_and_hazards.md R300; treatment "any value" of
93_implementation_defined.md U10). A free value with no body (DESIGN CHOICE, log 6). -/
opaque Config.latchAtReset : Nat → Latch

end Sys2Proof
end

