-- ==== Sys2Proof/Syntax.lean ====
section
/-! DEFINITION. The commands, the register names, the bus accesses and the host notation, as syntax. -/

namespace Sys2Proof

/-- A command word as written to CMD (30_encoding.md R80): one constructor per row of the opcode table. `r` is bits
31:2, which the hardware ignores; it is kept so that a word and its instruction say the same (log 1). -/
inductive Instr where
  /-- OP = 0 (46_commands.md R232). -/
  | nop (r : BitVec 30)
  /-- OP = 1 (46_commands.md R234). -/
  | encode (r : BitVec 30)
  /-- OP = 2 (46_commands.md R250). -/
  | decode (r : BitVec 30)
  /-- OP = 3 (46_commands.md R233). -/
  | reserved (r : BitVec 30)
deriving DecidableEq, Repr, Inhabited

/-- The registers of the window, by name (10_state.md R22). -/
inductive Reg where
  | cmd | status | serial | fields | material | version | key
  | code0 | code1 | code2 | code3 | code4
  | dSerial | dFields | dMaterial | dVersion | dCheck | eInfo
deriving DecidableEq, Repr, Inhabited

/-- One bus access of the host (00_scope.md §5, 20_memory.md R63): its byte offset from `P_BASE`, its width in bits,
and the data of a write. -/
inductive Access where
  | read (off : Offset) (width : Nat)
  | write (off : Offset) (width : Nat) (data : Word)
deriving DecidableEq, Repr, Inhabited

/-- What the host does at its turns (30_encoding.md R84, R85): a bus access; a read with an expected value; or the
polling loop `wait`. -/
inductive HostOp where
  | access (a : Access)
  | expect (off : Offset) (value : Word)
  | wait
deriving DecidableEq, Repr, Inhabited

/-- The operand `<reg>` of the host notation: "a register name ... or a hexadecimal offset" (30_encoding.md R84). -/
inductive RegOperand where
  | reg (r : Reg)
  | offset (off : Offset)
deriving DecidableEq, Repr, Inhabited

/-- One line of a host program: the accesses of 30_encoding.md R84 and the pseudo-instructions of R85. -/
inductive HostLine where
  | wr (t : RegOperand) (v : Word)
  | rd (t : RegOperand)
  | rdExpect (t : RegOperand) (v : Word)
  | nop
  | encode
  | decode
  | wait
  | clr
  | ldcode (chars : Vector Byte 19)
  | ldserial (d1 d2 d3 d4 : Byte)
  | ldfields (hm env spd ct : Byte)
  | ldmat (abs ppsf iso gen : Byte)
deriving DecidableEq, Repr

/-- Who acts next: one of the two agents, or the platform's reset (10_state.md R46; 70_reset_and_hazards.md R302). -/
inductive Turn where
  | host | engine | reset
deriving DecidableEq, Repr, Inhabited

end Sys2Proof
end

