-- ==== Sys2Proof/WellFormed.lean ====
section
/-! DEFINITION. The well-formedness checks: of commands (none can fail), of bus accesses, of host lines and of
configurations. -/

namespace Sys2Proof

/-- Every command is well formed: "every 32-bit word decodes to exactly one of the four OP values" and "no word fails
to decode" (30_encoding.md R81), and the reserved bits may hold anything. -/
def Instr.wellFormed : Instr → Bool
  | .nop _ => true
  | .encode _ => true
  | .decode _ => true
  | .reserved _ => true

/-- "Every access is 32 bits wide and 4-byte aligned: `off mod 4 = 0`" (20_memory.md R63). -/
def Access.wellFormed : Access → Bool
  | .read off width => width == 32 && off.toNat % 4 == 0
  | .write off width _ => width == 32 && off.toNat % 4 == 0

/-- Each line of a host program "is one 32-bit aligned access" (30_encoding.md R84); a hexadecimal offset may fail. -/
def RegOperand.wellFormed : RegOperand → Bool
  | .reg _ => true
  | .offset off => off.toNat % 4 == 0

/-- The lines of 30_encoding.md R84, R85 whose accesses the bus allows. -/
def HostLine.wellFormed : HostLine → Bool
  | .wr t _ => t.wellFormed
  | .rd t => t.wellFormed
  | .rdExpect t _ => t.wellFormed
  | .nop => true
  | .encode => true
  | .decode => true
  | .wait => true
  | .clr => true
  | .ldcode _ => true
  | .ldserial _ _ _ _ => true
  | .ldfields _ _ _ _ => true
  | .ldmat _ _ _ _ => true

/-- The canonical part of the alphabet, positions 0..31 (40_alphabet.md R100). -/
abbrev Cfg.canonical (c : Cfg) : List Byte := c.alphabet.toList.take 32

/-- 00_scope.md R4 (a). -/
abbrev Cfg.AlphabetOk (c : Cfg) : Prop := c.canonical.Nodup ∧ SEP ∉ c.canonical

/-- 00_scope.md R4 (b). -/
abbrev Cfg.SeedOk (c : Cfg) : Prop := ∀ row ∈ c.seed.toList, ∀ e ∈ row.toList, e ≤ 34

/-- 00_scope.md R4 (c). -/
abbrev Cfg.HardwareModelOk (c : Cfg) : Prop :=
  (∃ n ∈ [1, 2, 3, 4, 5], c.hmMask.toNat = 2 ^ n - 1) ∧ c.hmCount ≤ c.hmMask.toNat + 1

/-- 00_scope.md R4 (d); that `P_CT_CONFIG_ID` is in 0..3 is its type. -/
abbrev Cfg.CodeTypeOk (c : Cfg) : Prop := c.ctConfigId.val ∈ c.ctKnown

/-- The ranges of 00_scope.md R3's table that the Lean types of `Cfg` do not carry. -/
abbrev Cfg.InRange (c : Cfg) : Prop :=
  (1 ≤ c.hmCount ∧ c.hmCount ≤ 32) ∧ (∀ k ∈ c.ctKnown, k < 32) ∧
  (c.ctCheckIndex ≠ 4 ∧ c.ctCheckIndex ≠ 9 ∧ c.ctCheckIndex ≠ 14) ∧
  (1 ≤ c.ctCheckMask.toNat ∧ c.ctCheckMask.toNat ≤ 0x1F)

/-- `WF(Cfg)` of 00_scope.md R4, for a configuration of the types and ranges of R3. The machine runs on every
configuration; this is a premise of the claims that need it (log 8). -/
abbrev Cfg.WF (c : Cfg) : Prop :=
  c.InRange ∧ c.AlphabetOk ∧ c.SeedOk ∧ c.HardwareModelOk ∧ c.CodeTypeOk

end Sys2Proof
end

