-- ==== Sys2Proof/Decode.lean ====
section
/-! DEFINITION. Decoding and encoding of command words, register offsets and host lines. -/

namespace Sys2Proof

/-! ### The command word (30_encoding.md R80, R81) -/

/-- The command OP selects, with the ignored bits 31:2 beside it (30_encoding.md R81). -/
def decodeOp (op : BitVec 2) (r : BitVec 30) : Instr :=
  match op.toNat with
  | 0 => .nop r
  | 1 => .encode r
  | 2 => .decode r
  | _ => .reserved r

/-- `decode_cmd` of 30_encoding.md R81: `op = w[1:0]`. -/
def decodeWord (w : Word) : Instr := decodeOp (w.extractLsb' 0 2) (w.extractLsb' 2 30)

/-- OP of a command (30_encoding.md R80). -/
def Instr.op : Instr → BitVec 2
  | .nop _ => 0
  | .encode _ => 1
  | .decode _ => 2
  | .reserved _ => 3

/-- Bits 31:2 of a command word, ignored by the hardware (30_encoding.md R80). -/
def Instr.ignored : Instr → BitVec 30
  | .nop r => r
  | .encode r => r
  | .decode r => r
  | .reserved r => r

/-- The command word of a command: bits 31:2 above OP in bits 1:0 (30_encoding.md R80). -/
def encode (i : Instr) : Word := i.ignored ++ i.op

/-- Why bytes are no command. -/
inductive DecodeReject where
  /-- Fewer than the four bytes of a command word: "one length, 32 bits" (30_encoding.md R80; log 18). -/
  | truncated
deriving DecidableEq, Repr

/-- A command from its bytes, lowest address first (20_memory.md R61), and the bytes after it. -/
def decodeBytes : List Byte → Except DecodeReject (Instr × List Byte)
  | b0 :: b1 :: b2 :: b3 :: rest => .ok (decodeWord (b3 ++ b2 ++ b1 ++ b0), rest)
  | _ => .error .truncated

/-- The bytes of a command word, lowest address first (20_memory.md R61). -/
def encodeBytes (i : Instr) : List Byte :=
  let w := encode i
  [w.extractLsb' 0 8, w.extractLsb' 8 8, w.extractLsb' 16 8, w.extractLsb' 24 8]

/-- The command whose word is `w` as the opcode table numbers its bits; the bits above `nbits` are 0. The table gives
every row 32 bits. -/
def decodeTableWord (nbits w : Nat) : Option Instr :=
  if nbits ≤ 32 then
    let v : Word := BitVec.ofNat 32 (w % 2 ^ nbits)
    match decodeBytes [v.extractLsb' 0 8, v.extractLsb' 8 8, v.extractLsb' 16 8, v.extractLsb' 24 8] with
    | .ok (i, _) => some i
    | .error _ => none
  else none

/-! ### Register offsets (10_state.md R22) -/

/-- The byte offset of a register (10_state.md R22). -/
def Reg.offset : Reg → Offset
  | .cmd => 0x00
  | .status => 0x04
  | .serial => 0x08
  | .fields => 0x0C
  | .material => 0x10
  | .version => 0x14
  | .key => 0x18
  | .code0 => 0x20
  | .code1 => 0x24
  | .code2 => 0x28
  | .code3 => 0x2C
  | .code4 => 0x30
  | .dSerial => 0x40
  | .dFields => 0x44
  | .dMaterial => 0x48
  | .dVersion => 0x4C
  | .dCheck => 0x50
  | .eInfo => 0x54

/-- The register at an offset; none at a reserved offset (10_state.md R22, R42). -/
def Reg.ofOffset (off : Offset) : Option Reg :=
  match off.toNat with
  | 0x00 => some .cmd
  | 0x04 => some .status
  | 0x08 => some .serial
  | 0x0C => some .fields
  | 0x10 => some .material
  | 0x14 => some .version
  | 0x18 => some .key
  | 0x20 => some .code0
  | 0x24 => some .code1
  | 0x28 => some .code2
  | 0x2C => some .code3
  | 0x30 => some .code4
  | 0x40 => some .dSerial
  | 0x44 => some .dFields
  | 0x48 => some .dMaterial
  | 0x4C => some .dVersion
  | 0x50 => some .dCheck
  | 0x54 => some .eInfo
  | _ => none

/-! ### Host lines (30_encoding.md R84, R85) -/

/-- The offset a `<reg>` operand names (30_encoding.md R84). -/
def RegOperand.toOffset : RegOperand → Offset
  | .reg r => r.offset
  | .offset off => off

/-- One 32-bit write, `wr <reg>, <imm32>` (30_encoding.md R84). -/
def HostOp.wr (off : Offset) (v : Word) : HostOp := .access (.write off 32 v)

/-- One 32-bit read, `rd <reg>` (30_encoding.md R84). -/
def HostOp.rd (off : Offset) : HostOp := .access (.read off 32)

/-- The operations a line of a host program stands for: R84's encodings and R85's expansions (30_encoding.md). -/
def HostLine.expand : HostLine → List HostOp
  | .wr t v => [.wr t.toOffset v]
  | .rd t => [.rd t.toOffset]
  | .rdExpect t v => [.expect t.toOffset v]
  | .nop => [.wr Reg.cmd.offset 0x00000000]
  | .encode => [.wr Reg.cmd.offset 0x00000001, .wait]
  | .decode => [.wr Reg.cmd.offset 0x00000002, .wait]
  | .wait => [.wait]
  | .clr => [.wr Reg.status.offset 0x0000000E]
  | .ldcode ch =>
    [.wr Reg.code0.offset (ch[3] ++ ch[2] ++ ch[1] ++ ch[0]), .wr Reg.code1.offset (ch[7] ++ ch[6] ++ ch[5] ++ ch[4]),
     .wr Reg.code2.offset (ch[11] ++ ch[10] ++ ch[9] ++ ch[8]), .wr Reg.code3.offset (ch[15] ++ ch[14] ++ ch[13] ++ ch[12]),
     .wr Reg.code4.offset (0x00#8 ++ ch[18] ++ ch[17] ++ ch[16])]
  | .ldserial d1 d2 d3 d4 => [.wr Reg.serial.offset (d4 ++ d3 ++ d2 ++ d1)]
  | .ldfields hm env spd ct => [.wr Reg.fields.offset (ct ++ spd ++ env ++ hm)]
  | .ldmat abs ppsf iso gen => [.wr Reg.material.offset (gen ++ iso ++ ppsf ++ abs)]

/-- The host operations of a whole program, line after line (30_encoding.md R84). -/
def assemble (p : List HostLine) : List HostOp := p.flatMap HostLine.expand

end Sys2Proof
end

