-- ==== Sys2Proof/Machine/State.lean ====
section
/-! DEFINITION. The state of the block, of its host and of the schedule; the outcomes of a step; reset. -/

namespace Sys2Proof.Machine

/-- The fields of STATUS that have storage (10_state.md R24); the reserved bits read 0 and keep nothing (R42). -/
structure Status where
  busy : Bool
  done : Bool
  err : Bool
  ovr : Bool
  errcode : BitVec 4
deriving DecidableEq, Repr, Inhabited

/-- The code registers (10_state.md R35). Bits 31:24 of CODE4 (byte 0x33) are reserved, RAZ/WI, and have no storage
(log 9). -/
structure CodeRegs where
  code0 : Word
  code1 : Word
  code2 : Word
  code3 : Word
  code4 : BitVec 24
deriving DecidableEq, Repr, Inhabited

/-- D_VERSION (10_state.md R39); bits 31:16 read 0. -/
structure DVersion where
  ver : Byte
  key : Byte
deriving DecidableEq, Repr, Inhabited

/-- D_CHECK (10_state.md R40). -/
structure DCheck where
  checksum1 : Byte
  checksum2 : Byte
  sum : Half
deriving DecidableEq, Repr, Inhabited

/-- E_INFO (10_state.md R41); bits 15:8 read 0. -/
structure EInfo where
  shiftBase : Byte
  sum : Half
deriving DecidableEq, Repr, Inhabited

/-- One read by the host: "the value is the program's observation" (30_encoding.md R84), with the value an assertion
expects, if it was one (log 10). -/
structure Observation where
  off : Offset
  value : Word
  expected : Option Word
deriving DecidableEq, Repr, Inhabited

/-- The errors a command can end with (60_exceptions.md R270). They are reported in STATUS and are no machine
faults. -/
inductive ErrCode where
  | illegalCommand | unimplementedCodeType | fieldRange | shiftBaseOverflow | checksumMismatch | invalidCodeType
deriving DecidableEq, Repr

/-- What stops the machine. -/
inductive Fault where
  /-- `BusFault(off)`: raised by a host access that is misaligned or not 32 bits wide (20_memory.md R64;
  60_exceptions.md R278). Final. Safe: the spec says that it "errs toward unprovable". -/
  | busFault (off : Offset)
deriving DecidableEq, Repr

/-- What the model declines to run. -/
inductive Refusal where
  /-- Raised by `exec` for a command with no meaning yet. Safe. No arm of `exec` raises it. -/
  | notModelled (mnemonic : String)
deriving DecidableEq, Repr

/-- The whole machine: the configuration, the registers of 10_state.md R22, the latch of R43, the host agent and the
order in which the agents act. -/
structure State where
  /-- ROM tables and parameters (10_state.md R45; 00_scope.md R3). No step changes them (R6). -/
  cfg : Cfg
  /-- STATUS (R24). -/
  status : Status
  /-- SERIAL (R30). -/
  serial : Word
  /-- FIELDS (R31). -/
  fields : Word
  /-- MATERIAL (R32). -/
  material : Word
  /-- VERSION.VER (R33). -/
  version : Byte
  /-- KEY (R34). -/
  key : Word
  /-- CODE0..CODE4 (R35). -/
  code : CodeRegs
  /-- D_SERIAL (R36). -/
  dSerial : Word
  /-- D_FIELDS (R37). -/
  dFields : Word
  /-- D_MATERIAL (R38). -/
  dMaterial : Word
  /-- D_VERSION (R39). -/
  dVersion : DVersion
  /-- D_CHECK (R40). -/
  dCheck : DCheck
  /-- E_INFO (R41). -/
  eInfo : EInfo
  /-- The command latch `L` (R43). -/
  latch : Latch
  /-- What the host still does, in order (30_encoding.md R84; the model's own field, log 4). -/
  program : List HostOp
  /-- What the host has read, newest first (30_encoding.md R84; the model's own field, log 4). -/
  observed : List Observation
  /-- Who acts next, in order: any interleaving of the agents begins as some list (10_state.md R46; the model's own
  field, log 3). Who acts past its end is `State.nextTurn`. -/
  schedule : List Turn
  /-- How many resets have happened: it picks the free value of `latch` at the next one (the model's own field,
  log 6). -/
  resets : Nat
deriving DecidableEq, Repr, Inhabited

/-- Whom the schedule names for this step; none at its end. -/
def State.turn (s : State) : Option Turn := s.schedule.head?

/-- STATUS after reset (70_reset_and_hazards.md R300). -/
def Status.reset : Status := { busy := false, done := false, err := false, ovr := false, errcode := 0 }

/-- The machine right after its first reset, for a configuration `c` (70_reset_and_hazards.md R300): every register 0,
the latch unspecified, the ROM as it is (R301); no program and no schedule have been loaded. -/
def State.resetWith (c : Cfg) : State :=
  { cfg := c
    status := Status.reset
    serial := 0, fields := 0, material := 0, version := 0, key := 0
    code := { code0 := 0, code1 := 0, code2 := 0, code3 := 0, code4 := 0 }
    dSerial := 0, dFields := 0, dMaterial := 0
    dVersion := { ver := 0, key := 0 }
    dCheck := { checksum1 := 0, checksum2 := 0, sum := 0 }
    eInfo := { shiftBase := 0, sum := 0 }
    latch := Config.latchAtReset 0
    program := [], observed := [], schedule := [], resets := 1 }

/-- The machine right after reset (70_reset_and_hazards.md R300), with the device's own configuration, whose contents
the spec does not give (log 5). -/
def State.reset : State := State.resetWith Config.device

end Sys2Proof.Machine
end

