-- ==== Sys2Proof/Machine/Ops.lean ====
section
/-! DEFINITION. Shared operations: register lanes, code characters, working arrays, the issue of a command and the
two ways it completes. -/

namespace Sys2Proof.Machine

/-! ### Lanes and byte order (20_memory.md R61, R62) -/

/-- Byte lane `b` (0..3) of a register: bits `[8b+7 : 8b]` (20_memory.md R61). -/
def lane (w : Word) (b : Nat) : Byte := w.extractLsb' (8 * b) 8

/-- The word with these bytes, `b3` in bits 31:24 (30_encoding.md R85, `{a, b, c, d}`). -/
def word4 (b3 b2 b1 b0 : Byte) : Word := b3 ++ b2 ++ b1 ++ b0

/-- The register CODE`k` as a 32-bit word; the reserved byte of CODE4 reads 0 (10_state.md R35). -/
def CodeRegs.word (c : CodeRegs) (k : Nat) : Word :=
  match k with
  | 0 => c.code0
  | 1 => c.code1
  | 2 => c.code2
  | 3 => c.code3
  | _ => c.code4.setWidth 32

/-- `code[i]`, byte lane `i mod 4` of CODE`(i div 4)` (10_state.md R35). -/
def CodeRegs.char (c : CodeRegs) (i : Idx) : Byte := lane (c.word (i.val / 4)) (i.val % 4)

/-- The code registers that hold the characters `a` (10_state.md R35; 46_commands.md R247). -/
def CodeRegs.ofChars (a : Idx → Byte) : CodeRegs :=
  { code0 := word4 (a 3) (a 2) (a 1) (a 0)
    code1 := word4 (a 7) (a 6) (a 5) (a 4)
    code2 := word4 (a 11) (a 10) (a 9) (a 8)
    code3 := word4 (a 15) (a 14) (a 13) (a 12)
    code4 := a 18 ++ a 17 ++ a 16 }

/-! ### Working arrays (10_state.md R44) -/

/-- The array `a` with `c` at index `i`: `a[i] <- c`. -/
def setAt (a : Idx → Byte) (i : Idx) (c : Byte) : Idx → Byte := fun j => if j = i then c else a j

/-- `for i in is: a[i] <- f i`, stopping at the first error that `f` raises (00_scope.md §5, `raise`). -/
def fillM (is : List Idx) (f : Idx → Except ErrCode Byte) (a : Idx → Byte) : Except ErrCode (Idx → Byte) :=
  match is with
  | [] => .ok a
  | i :: rest =>
    match f i with
    | .error e => .error e
    | .ok c => fillM rest f (setAt a i c)

/-! ### Outcomes -/

/-- Continue after a next state; a fault or a refusal stays. -/
def mapNext (f : State → State) (o : Host.Outcome State Fault Refusal) : Host.Outcome State Fault Refusal :=
  match o with
  | .next s => .next (f s)
  | .fault r => .fault r
  | .refused r => .refused r

/-! ### Errors and completion (60_exceptions.md) -/

/-- The numeric error code (60_exceptions.md R270). -/
def ErrCode.code : ErrCode → BitVec 4
  | .illegalCommand => 1
  | .unimplementedCodeType => 2
  | .fieldRange => 3
  | .shiftBaseOverflow => 4
  | .checksumMismatch => 5
  | .invalidCodeType => 6

/-- `complete_ok` of 60_exceptions.md R271, on a state whose outputs have been written. OVR is not changed. -/
def completeOk (s : State) : State :=
  { s with status := { s.status with busy := false, done := true, err := false, errcode := 0 } }

/-- `complete_err(e)` of 60_exceptions.md R271: no output register is written (R272). OVR is not changed. -/
def completeErr (e : ErrCode) (s : State) : State :=
  { s with status := { s.status with busy := false, done := true, err := true, errcode := e.code } }

/-- The completion step of a command whose rule, run on the state, writes its outputs or raises an error
(60_exceptions.md R271). -/
def complete (outputs : State → Except ErrCode State) (s : State) : State :=
  match outputs s with
  | .ok t => completeOk t
  | .error e => completeErr e s

/-! ### Issue (46_commands.md R230, R231) -/

/-- The copy of OP and of the input registers that acceptance takes (10_state.md R43). -/
def State.latchOf (s : State) (op : BitVec 2) : Latch :=
  { op := op, serial := s.serial, fields := s.fields, material := s.material, version := s.version, key := s.key
    code0 := s.code.code0, code1 := s.code.code1, code2 := s.code.code2, code3 := s.code.code3, code4 := s.code.code4 }

/-- The latched code registers (10_state.md R43). -/
def codeOf (l : Latch) : CodeRegs :=
  { code0 := l.code0, code1 := l.code1, code2 := l.code2, code3 := l.code3, code4 := l.code4 }

/-- The acceptance of a command (46_commands.md R230). -/
def accept (op : BitVec 2) (s : State) : State :=
  { s with
    latch := s.latchOf op
    status := { s.status with busy := true, done := false, err := false, errcode := 0 } }

/-- A command dropped because another is in flight (46_commands.md R231). -/
def drop (s : State) : State := { s with status := { s.status with ovr := true } }

/-- A write of a command with OP in {1, 2, 3} to CMD (46_commands.md R230). -/
def issue (op : BitVec 2) (s : State) : State := if s.status.busy then drop s else accept op s

/-- A command in whichever of its two agent steps the schedule names (10_state.md R46; 46_commands.md R230): at the
engine's turn its completion, else the host's write of it (log 2). -/
def command (op : BitVec 2) (outputs : State → Except ErrCode State) (s : State) :
    Host.Outcome State Fault Refusal :=
  match s.turn with
  | some .engine => .next (complete outputs s)
  | _ => .next (issue op s)

/-! ### Reset (70_reset_and_hazards.md R300-R302) -/

/-- The platform resets the block: the registers go to 0, a command in flight is abandoned (R302), the latch is
unspecified (R300), the ROM stays (R301). The host and the schedule are no part of the block and stay (log 16). -/
def resetBlock (s : State) : State :=
  { State.resetWith s.cfg with
    latch := Config.latchAtReset s.resets
    program := s.program, observed := s.observed, schedule := s.schedule, resets := s.resets + 1 }

end Sys2Proof.Machine
end

