-- ==== Sys2Proof/Machine/Alphabet.lean ====
section
/-! DEFINITION. The alphabet substitution table (40_alphabet.md). -/

namespace Sys2Proof.Machine

/-- `char_of(p)` (40_alphabet.md R101). -/
def charOf (c : Cfg) (p : Nat) : Except ErrCode Byte :=
  if h : p < 35 then .ok c.alphabet[p] else .error .fieldRange

/-- The least index, counted from `i`, at which a list holds `ch`; 31 if it holds none. -/
def firstIndex (ch : Byte) : List Byte → Nat → Nat
  | [], _ => 31
  | b :: rest, i => if b = ch then i else firstIndex ch rest (i + 1)

/-- `position_of(c)` (40_alphabet.md R102): the first canonical position of a byte, and 31 for every byte that has
none. -/
def positionOf (c : Cfg) (ch : Byte) : Nat := firstIndex ch c.canonical 0

/-- `canon(p)` (40_alphabet.md R103): the canonical value of a position 0..34. -/
def canon (c : Cfg) (p : Fin 35) : Nat := positionOf c c.alphabet[p]

end Sys2Proof.Machine
end

