-- ==== Sys2Proof/Machine/Operands.lean ====
section
/-! DEFINITION. The operands of the commands: the code layout of 42_embed.md R140, the latched field lanes
(30_encoding.md R82) and the checks that narrow them (46_commands.md R240, R241). -/

namespace Sys2Proof.Machine

/-- Every code index, in order. -/
def allIdx : List Idx := [0, 1, 2, 3, 4, 5, 6, 7, 8, 9, 10, 11, 12, 13, 14, 15, 16, 17, 18]

/-- `FIELDIDX = SH = CS`, the 13 field indices (42_embed.md R141). -/
def fieldIdx : List Idx := [0, 1, 2, 3, 5, 6, 10, 11, 12, 13, 15, 16, 18]

/-- The raw value ENCODE embeds at a field index (42_embed.md R140, R147): an 8-bit lane of the latched inputs. No
other index has one. -/
def rawValue (l : Latch) (i : Idx) : Byte :=
  match i.val with
  | 0 => lane l.serial 0
  | 1 => lane l.fields 0
  | 2 => lane l.fields 1
  | 3 => lane l.fields 2
  | 5 => lane l.material 0
  | 6 => lane l.serial 1
  | 10 => lane l.material 1
  | 11 => lane l.material 2
  | 12 => lane l.serial 2
  | 13 => l.version
  | 15 => lane l.fields 3
  | 16 => lane l.material 3
  | 18 => lane l.serial 3
  | _ => 0

/-- The field mask of a field index (42_embed.md R140, R144): 0x1F for 5-bit fields, 0x03 for 2-bit fields, and
`P_HM_MASK` for the hardware model. No other index has one. -/
def fieldMask (c : Cfg) (i : Idx) : Byte :=
  match i.val with
  | 0 => 0x1F
  | 1 => c.hmMask
  | 2 => 0x03
  | 3 => 0x03
  | 5 => 0x1F
  | 6 => 0x1F
  | 10 => 0x1F
  | 11 => 0x1F
  | 12 => 0x1F
  | 13 => 0x03
  | 15 => 0x03
  | 16 => 0x1F
  | 18 => 0x1F
  | _ => 0

/-- The four digits of a serial number, D1 most significant (10_state.md R30), each a decimal digit. -/
structure Digits where
  d1 : Fin 10
  d2 : Fin 10
  d3 : Fin 10
  d4 : Fin 10
deriving DecidableEq, Repr

/-- A serial lane as a decimal digit; a lane above 9 is FIELD_RANGE (46_commands.md R241). -/
def digit (b : Byte) : Except ErrCode (Fin 10) :=
  if h : b.toNat < 10 then .ok ⟨b.toNat, h⟩ else .error .fieldRange

/-- The serial digits of the latched inputs (10_state.md R30; 46_commands.md R241). -/
def serialDigits (l : Latch) : Except ErrCode Digits := do
  let d1 ← digit (lane l.serial 0)
  let d2 ← digit (lane l.serial 1)
  let d3 ← digit (lane l.serial 2)
  let d4 ← digit (lane l.serial 3)
  return { d1, d2, d3, d4 }

/-- ENCODE step 1: the whole 8-bit lane FIELDS.CT is compared with `P_CT_CONFIG_ID` (46_commands.md R240). -/
def configCodeType (c : Cfg) (l : Latch) : Except ErrCode (Fin 4) :=
  if (lane l.fields 3).toNat = c.ctConfigId.val then .ok c.ctConfigId else .error .unimplementedCodeType

/-- The hardware-model check of ENCODE step 2: FIELD_RANGE if `L.FIELDS.HM >= P_HM_COUNT` (46_commands.md R241). -/
def hardwareModel (c : Cfg) (l : Latch) : Except ErrCode (Fin c.hmCount) :=
  if h : (lane l.fields 0).toNat < c.hmCount then .ok ⟨_, h⟩ else .error .fieldRange

end Sys2Proof.Machine
end

