-- ==== Sys2Proof/Machine/SerialNormalizer.lean ====
section
/-! DEFINITION. The serial normalizer (45_serial_normalizer.md). -/

namespace Sys2Proof.Machine

/-- `f` of 45_serial_normalizer.md R211: the place of the first non-zero digit, 5 if there is none. -/
def firstSignificant (d : Digits) : Nat :=
  if d.d1 ≠ 0 then 1 else if d.d2 ≠ 0 then 2 else if d.d3 ≠ 0 then 3 else if d.d4 ≠ 0 then 4 else 5

/-- The table sum over the significant digits, right-aligned (45_serial_normalizer.md R212). -/
def snTableSum (c : Cfg) (d : Digits) : Nat :=
  let f := firstSignificant d
  (if f ≤ 1 then (c.sn[0][d.d1]).toNat else 0) + (if f ≤ 2 then (c.sn[1][d.d2]).toNat else 0) +
  (if f ≤ 3 then (c.sn[2][d.d3]).toNat else 0) + (if f ≤ 4 then (c.sn[3][d.d4]).toNat else 0)

/-- `sn_norm(serial, ct)` (45_serial_normalizer.md R213-R216): the table sum and its unconditional correction. The code
type has no effect (R214). -/
def snNorm (c : Cfg) (d : Digits) (_ct : Fin 4) : Nat :=
  let sum := snTableSum c d
  sum + (c.snMod[sum % 10]'(Nat.mod_lt _ (by decide))).toNat

end Sys2Proof.Machine
end

