-- ==== Sys2Proof/Machine/Shift.lean ====
section
/-! DEFINITION. The cyclic-shift engine (44_shift.md). -/

namespace Sys2Proof.Machine

/-- `pre` of 44_shift.md R180-R182: the table sum, plus 4 for an odd serial number, replaced by a non-zero key. -/
def shiftBaseSum (c : Cfg) (ct : Fin 4) (hm : Fin c.hmCount) (d : Digits) (key : Word) : Nat :=
  let pre := (c.ctTable[ct]).toNat + (c.hmTable[hm]).toNat + snNorm c d ct
  let pre := if d.d4.val % 2 = 1 then pre + 4 else pre
  if key ≠ 0 then key.toNat else pre

/-- `reduce` with `n` subtractions of 32 still allowed (44_shift.md R183). -/
def reduceWithin : Nat → Nat → Except ErrCode Nat
  | 0, pre => if pre > 31 then .error .shiftBaseOverflow else .ok pre
  | n + 1, pre => if pre > 31 then reduceWithin n (pre - 32) else .ok pre

/-- `reduce(pre)` (44_shift.md R183): at most five subtractions. -/
def reduce (pre : Nat) : Except ErrCode Nat := reduceWithin 5 pre

/-- `red(k)` (44_shift.md R185). -/
def red (k : Nat) : Nat := if k > 32 then k % 10 else k

/-- `shift(k, p)` (44_shift.md R186). -/
def shift (k p : Nat) : Nat :=
  let v := (p + red k) &&& 0xFF
  if v > 31 then v - 32 else v

/-- `unshift(k, s)` (44_shift.md R188); `t` is signed before its correction. -/
def unshift (k s : Nat) : Nat :=
  let t : Int := (s : Int) - (red k : Int)
  let t := if t < 0 then t + 32 else t
  (t % 256).toNat

/-- The offset of index `i` for a shift base: `B + P_MAGIC[i]` (44_shift.md R187, R189). -/
def offsetAt (c : Cfg) (base : Nat) (i : Idx) : Nat := base + (c.magic[i]).toNat

/-- `E[17] <- char_of(B)` (44_shift.md R184). -/
def writeShiftBase (c : Cfg) (base : Nat) (e : Idx → Byte) : Except ErrCode (Idx → Byte) :=
  fillM [17] (fun _ => charOf c base) e

/-- The forward shift (44_shift.md R187). -/
def forwardShift (c : Cfg) (base : Nat) (e : Idx → Byte) : Except ErrCode (Idx → Byte) :=
  fillM fieldIdx (fun i => charOf c (shift (offsetAt c base i) (positionOf c (e i)))) e

/-- The inverse shift (44_shift.md R189): `raw`. The separators 4, 9 and 14 are never read; they stand as 0. -/
def inverseShift (c : Cfg) (code : Idx → Byte) (i : Idx) : Nat :=
  let base := positionOf c (code 17)
  if i ∈ fieldIdx then unshift (offsetAt c base i) (positionOf c (code i))
  else if i = 7 ∨ i = 8 then positionOf c (code i)
  else if i = 17 then base
  else 0

end Sys2Proof.Machine
end

