-- ==== Sys2Proof/Machine/Checksum.lean ====
section
/-! DEFINITION. The checksum unit (43_checksum.md). -/

namespace Sys2Proof.Machine

/-- `S` of `compose(E)` (43_checksum.md R160): a plain integer. -/
def composeSum (c : Cfg) (e : Idx → Byte) : Nat := (fieldIdx.map fun i => positionOf c (e i)).sum

/-- `hi` of `compose(E)` (43_checksum.md R160). -/
def highNibble (sum : Nat) : Nat := (sum >>> 4) &&& 0xF

/-- `lo` of `compose(E)` (43_checksum.md R160). -/
def lowNibble (sum : Nat) : Nat := sum &&& 0xF

/-- The checksum write (43_checksum.md R161): each nibble through the shift with offset 0. -/
def writeChecksum (c : Cfg) (sum : Nat) (e : Idx → Byte) : Except ErrCode (Idx → Byte) :=
  fillM [7, 8] (fun i => charOf c (shift 0 (if i = 7 then highNibble sum else lowNibble sum))) e

/-- `S'` of `verify(raw)` (43_checksum.md R162). -/
def verifySum (raw : Idx → Nat) : Nat := (fieldIdx.map raw).sum

/-- `verify(raw)` (43_checksum.md R162). -/
def verify (raw : Idx → Nat) : Except ErrCode Nat :=
  if verifySum raw ≠ 16 * raw 7 + raw 8 then .error .checksumMismatch else .ok (verifySum raw)

end Sys2Proof.Machine
end

