-- ==== Sys2Proof/Machine/Embed.lean ====
section
/-! DEFINITION. The field embedder (42_embed.md). -/

namespace Sys2Proof.Machine

/-- `r` of 42_embed.md R143: `(~bit_mask & position_of(seed_char) & 0x1F) | raw_value`, eight bits (R145). -/
def embedPosition (c : Cfg) (seedChar raw mask : Byte) : Byte :=
  (~~~mask &&& BitVec.ofNat 8 (positionOf c seedChar) &&& 0x1F) ||| raw

/-- `embed(seed_char, raw_value, bit_mask)` (42_embed.md R143); FIELD_RANGE if `r > 34` (R145). -/
def embed (c : Cfg) (seedChar raw mask : Byte) : Except ErrCode Byte :=
  charOf c (embedPosition c seedChar raw mask).toNat

/-- `embed_all(s, L)` (42_embed.md R147): each field index gets its latched value under its mask; the others keep the
seed. -/
def embedAll (c : Cfg) (s : Idx → Byte) (l : Latch) : Except ErrCode (Idx → Byte) :=
  fillM fieldIdx (fun i => embed c (s i) (rawValue l i) (fieldMask c i)) s

end Sys2Proof.Machine
end

