-- ==== Sys2Proof/Machine/Seed.lean ====
section
/-! DEFINITION. The seed generator (41_seed.md). -/

namespace Sys2Proof.Machine

/-- `seed(d4)` (41_seed.md R121): the row of the last serial digit as characters, with the separators put in. -/
def seedSequence (c : Cfg) (d4 : Fin 10) : Except ErrCode (Idx → Byte) := do
  let s ← fillM allIdx (fun i => charOf c c.seed[d4][i]) (fun _ => SEP)
  return setAt (setAt (setAt s 4 SEP) 9 SEP) 14 SEP

end Sys2Proof.Machine
end

