-- ==== Sys2Proof/Machine/Codec.lean ====
section
/-! DEFINITION. The two algorithms of the codec sequencer, ENCODE(L) and DECODE(L), and the registers they write
(46_commands.md R234-R256). -/

namespace Sys2Proof.Machine

/-- What a successful ENCODE leaves: the code `C`, the compose sum `S` and the shift base `B` (46_commands.md R247). -/
structure EncodeResult where
  chars : Idx → Byte
  sum : Nat
  base : Nat

/-- `ENCODE(L)` (46_commands.md R234), step by step: R240, R241, R242, R243, R244, R245, R246. -/
def encodeFields (c : Cfg) (l : Latch) : Except ErrCode EncodeResult := do
  let ct ← configCodeType c l
  let d ← serialDigits l
  let hm ← hardwareModel c l
  let s ← seedSequence c d.d4
  let e ← embedAll c s l
  let sum := composeSum c e
  let e ← writeChecksum c sum e
  let base ← reduce (shiftBaseSum c ct hm d l.key)
  let e ← writeShiftBase c base e
  let chars ← forwardShift c base e
  return { chars, sum, base }

/-- The outputs of a successful ENCODE (46_commands.md R247). -/
def writeEncodeOutputs (r : EncodeResult) (s : State) : State :=
  { s with
    code := CodeRegs.ofChars r.chars
    eInfo := { shiftBase := BitVec.ofNat 8 r.base, sum := BitVec.ofNat 16 r.sum } }

/-- ENCODE as a completion step runs it: from the latch only (10_state.md R43). -/
def encodeOutputs (s : State) : Except ErrCode State := do
  let r ← encodeFields s.cfg s.latch
  return writeEncodeOutputs r s

/-- What a successful DECODE leaves: the raw array, from which the record is extracted, and the verify sum
(46_commands.md R250). -/
structure DecodeResult where
  raw : Idx → Nat
  sum : Nat

/-- DECODE step 3, the code-type validation (46_commands.md R255). -/
def validateCodeType (c : Cfg) (raw : Idx → Nat) : Except ErrCode Unit :=
  if raw c.ctCheckIndex &&& c.ctCheckMask.toNat ∈ c.ctKnown then .ok () else .error .invalidCodeType

/-- `DECODE(L)` (46_commands.md R250) from the 19 code bytes: R251, R252, R255. -/
def decodeCode (c : Cfg) (code : Idx → Byte) : Except ErrCode DecodeResult := do
  let raw := inverseShift c code
  let sum ← verify raw
  validateCodeType c raw
  return { raw, sum }

/-- A raw position as a register lane. -/
def rawLane (raw : Idx → Nat) (i : Idx) : Byte := BitVec.ofNat 8 (raw i)

/-- A raw position under the field mask of its index, as a register lane (46_commands.md R253). -/
def maskedLane (c : Cfg) (raw : Idx → Nat) (i : Idx) : Byte := rawLane raw i &&& fieldMask c i

/-- The outputs of a successful DECODE (46_commands.md R253, R254, R256). -/
def writeDecodeOutputs (r : DecodeResult) (s : State) : State :=
  { s with
    dSerial := word4 (rawLane r.raw 18) (rawLane r.raw 12) (rawLane r.raw 6) (rawLane r.raw 0)
    dFields := word4 (maskedLane s.cfg r.raw 15) (maskedLane s.cfg r.raw 3) (maskedLane s.cfg r.raw 2)
      (maskedLane s.cfg r.raw 1)
    dMaterial := word4 (rawLane r.raw 16) (rawLane r.raw 11) (rawLane r.raw 10) (rawLane r.raw 5)
    dVersion := { ver := maskedLane s.cfg r.raw 13, key := rawLane r.raw 17 }
    dCheck := { checksum1 := rawLane r.raw 7, checksum2 := rawLane r.raw 8, sum := BitVec.ofNat 16 r.sum } }

/-- DECODE as a completion step runs it: from the latched code bytes (46_commands.md R250). -/
def decodeOutputs (s : State) : Except ErrCode State := do
  let r ← decodeCode s.cfg (codeOf s.latch).char
  return writeDecodeOutputs r s

end Sys2Proof.Machine
end

