-- ==== Sys2Proof/Machine/Commands.lean ====
section
/-! DEFINITION. The meanings of the four commands (46_commands.md). `r` is bits 31:2 of the word, ignored by each
(30_encoding.md R80). -/

namespace Sys2Proof.Machine

/-- NOP (46_commands.md R232): no effect, also while busy. -/
def execNop (_r : BitVec 30) (s : State) : Host.Outcome State Fault Refusal := .next s

/-- ENCODE (46_commands.md R230, R234). -/
def execEncode (_r : BitVec 30) (s : State) : Host.Outcome State Fault Refusal := command 1 encodeOutputs s

/-- DECODE (46_commands.md R230, R250). -/
def execDecode (_r : BitVec 30) (s : State) : Host.Outcome State Fault Refusal := command 2 decodeOutputs s

/-- The reserved OP = 3 (46_commands.md R230, R233; 30_encoding.md R83): it completes with ILLEGAL_COMMAND. -/
def execReserved (_r : BitVec 30) (s : State) : Host.Outcome State Fault Refusal :=
  command 3 (fun _ => .error .illegalCommand) s

end Sys2Proof.Machine
end

