-- ==== Sys2Proof/Machine/Dispatch.lean ====
section
/-! DEFINITION. `exec`: one arm per command. -/

namespace Sys2Proof.Machine

def exec (i : Instr) (s : State) : Host.Outcome State Fault Refusal :=
  match i with
  | .nop r => Sys2Proof.Machine.execNop r s
  | .encode r => Sys2Proof.Machine.execEncode r s
  | .decode r => Sys2Proof.Machine.execDecode r s
  | .reserved r => Sys2Proof.Machine.execReserved r s

end Sys2Proof.Machine
end

