-- ==== Sys2Proof/Machine/Flags.lean ====
section
/-! DEFINITION. STATUS as a word, and its write-one-to-clear bits (10_state.md R24-R29). -/

namespace Sys2Proof.Machine

/-- STATUS as the host reads it (10_state.md R24): ERRCODE in bits 11:8, OVR, ERR, DONE, BUSY in bits 3..0, every
other bit 0. -/
def Status.word (st : Status) : Word :=
  0#20 ++ st.errcode ++ 0#4 ++ BitVec.ofBool st.ovr ++ BitVec.ofBool st.err ++ BitVec.ofBool st.done ++
    BitVec.ofBool st.busy

/-- A host write of `v` to STATUS (10_state.md R24): a 1 in bit 1, 2 or 3 clears DONE, ERR or OVR; clearing ERR also
sets ERRCODE to 0 (R27). Nothing else changes. -/
def Status.writeOneToClear (st : Status) (v : Word) : Status :=
  { busy := st.busy
    done := st.done && !v.getLsbD 1
    err := st.err && !v.getLsbD 2
    ovr := st.ovr && !v.getLsbD 3
    errcode := if v.getLsbD 2 then 0 else st.errcode }

end Sys2Proof.Machine
end

