-- ==== Sys2Proof/Machine/Bus.lean ====
section
/-! DEFINITION. The register window as the host sees it, whose turn it is, the host's turn and the engine's turn (10_state.md R22-R42;
20_memory.md; 30_encoding.md R84, R85; 70_reset_and_hazards.md R306). -/

namespace Sys2Proof.Machine

/-! ### Register access -/

/-- The value of a register as a 32-bit word; its reserved bits read 0 (10_state.md R22-R42). -/
def readReg (r : Reg) (s : State) : Word :=
  match r with
  | .cmd => 0
  | .status => s.status.word
  | .serial => s.serial
  | .fields => s.fields
  | .material => s.material
  | .version => s.version.setWidth 32
  | .key => s.key
  | .code0 => s.code.code0
  | .code1 => s.code.code1
  | .code2 => s.code.code2
  | .code3 => s.code.code3
  | .code4 => s.code.code4.setWidth 32
  | .dSerial => s.dSerial
  | .dFields => s.dFields
  | .dMaterial => s.dMaterial
  | .dVersion => word4 0 0 s.dVersion.key s.dVersion.ver
  | .dCheck => s.dCheck.sum ++ s.dCheck.checksum2 ++ s.dCheck.checksum1
  | .eInfo => s.eInfo.sum ++ 0#8 ++ s.eInfo.shiftBase

/-- `BusRead(off)` of an aligned 32-bit access: 0 at a reserved offset (10_state.md R42). -/
def busRead (off : Offset) (s : State) : Word :=
  match Reg.ofOffset off with
  | some r => readReg r s
  | none => 0

/-- The byte at byte offset `a` of the window: lane `a mod 4` of the register below it (20_memory.md R61). -/
def windowByte (a : Offset) (s : State) : Byte := lane (busRead (a &&& 0xFC) s) (a.toNat % 4)

/-- The byte offset of code character `i` (20_memory.md R62). -/
def charOffset (i : Idx) : Offset := 0x20 + BitVec.ofNat 8 i.val

/-- The platform address of a byte offset of the window (20_memory.md R67). -/
def busAddress (c : Cfg) (off : Offset) : Nat := c.base + off.toNat

/-- A write to a register other than CMD (20_memory.md R65): the RW registers keep the value, less their reserved bits;
STATUS clears the bits written as 1 (10_state.md R24); a read-only register ignores it. CMD keeps nothing
(10_state.md R23). -/
def writeReg (r : Reg) (v : Word) (s : State) : State :=
  match r with
  | .cmd => s
  | .status => { s with status := s.status.writeOneToClear v }
  | .serial => { s with serial := v }
  | .fields => { s with fields := v }
  | .material => { s with material := v }
  | .version => { s with version := lane v 0 }
  | .key => { s with key := v }
  | .code0 => { s with code := { s.code with code0 := v } }
  | .code1 => { s with code := { s.code with code1 := v } }
  | .code2 => { s with code := { s.code with code2 := v } }
  | .code3 => { s with code := { s.code with code3 := v } }
  | .code4 => { s with code := { s.code with code4 := v.setWidth 24 } }
  | .dSerial => s
  | .dFields => s
  | .dMaterial => s
  | .dVersion => s
  | .dCheck => s
  | .eInfo => s

/-- `BusWrite(off, v)` of an aligned 32-bit access: a write to CMD issues the command (10_state.md R23); a write to a
reserved offset is ignored (R42). -/
def busWrite (off : Offset) (v : Word) (s : State) : Host.Outcome State Fault Refusal :=
  match Reg.ofOffset off with
  | some .cmd => exec (decodeWord v) s
  | some r => .next (writeReg r v s)
  | none => .next s

/-! ### Whose turn it is -/

/-- Who acts next. The schedule says so, in any order (10_state.md R46). Past its end a command in flight completes: "an
enabled completion step eventually happens" (70_reset_and_hazards.md R306), so that no run starves the engine
(93_implementation_defined.md U11; log 17). With no command in flight the host goes on (log 3). -/
def State.nextTurn (s : State) : Turn :=
  match s.schedule with
  | t :: _ => t
  | [] => if s.status.busy then .engine else .host

/-- `s` with the next turn written into its schedule: `s` itself, unless the schedule is at its end. -/
def State.scheduled (s : State) : State := { s with schedule := s.nextTurn :: s.schedule.tail }

/-! ### The host's turn -/

/-- The offset of an access. -/
def accessOffset : Access → Offset
  | .read off _ => off
  | .write off _ _ => off

/-- The host notes what it read (30_encoding.md R84). -/
def observe (off : Offset) (expected : Option Word) (s : State) : State :=
  { s with observed := { off := off, value := busRead off s, expected := expected } :: s.observed }

/-- One bus access (20_memory.md R63-R65): a misaligned access, or one of a width other than 32 bits, is
`BusFault(off)` (R64; 60_exceptions.md R278). -/
def busAccess (a : Access) (s : State) : Host.Outcome State Fault Refusal :=
  if a.wellFormed then
    match a with
    | .read off _ => .next (observe off none s)
    | .write off _ v => busWrite off v s
  else .fault (.busFault (accessOffset a))

/-- The schedule moves on after an agent's step. -/
def endTurn (s : State) : State := { s with schedule := s.schedule.tail }

/-- The host has done its operation; the schedule moves on. -/
def retire (s : State) : State := { s with program := s.program.tail, schedule := s.schedule.tail }

/-- One read of the loop `wait` (30_encoding.md R85): it reads STATUS and goes on once bit 0 of the value is 0. -/
def waitStep (s : State) : State :=
  let t := observe Reg.status.offset none s
  if (busRead Reg.status.offset s).getLsbD 0 then endTurn t else retire t

/-- The host's next operation; a host with nothing left to do does nothing (10_state.md R46). -/
def hostTurn (s : State) : Host.Outcome State Fault Refusal :=
  match s.program with
  | [] => .next (endTurn s)
  | .access a :: _ => mapNext retire (busAccess a s)
  | .expect off v :: _ =>
    if (Access.read off 32).wellFormed then .next (retire (observe off (some v) s)) else .fault (.busFault off)
  | .wait :: _ => .next (waitStep s)

/-! ### The engine's turn -/

/-- The engine's completion step, "enabled exactly when STATUS.BUSY = 1": it runs the rule for `L.OP`
(46_commands.md R230). -/
def engineTurn (s : State) : Host.Outcome State Fault Refusal :=
  if s.status.busy then mapNext endTurn (exec (decodeOp s.latch.op 0) s) else .next (endTurn s)

/-- The platform's reset (70_reset_and_hazards.md R300, R302). -/
def resetTurn (s : State) : Host.Outcome State Fault Refusal := .next (endTurn (resetBlock s))

end Sys2Proof.Machine
end

