-- ==== Sys2Proof/Machine/Step.lean ====
section
/-! DEFINITION. One step of the machine, and the host's way to place a command where the next step takes it. -/

namespace Sys2Proof.Machine

/-- One step: the agent whose turn it is acts, as one atomic event (10_state.md R46; 20_memory.md R66, R68). Turns are
weakly fair to the engine (70_reset_and_hazards.md R306; `State.nextTurn`). -/
def step (s : State) : Host.Outcome State Fault Refusal :=
  match s.nextTurn with
  | .host => hostTurn s.scheduled
  | .engine => engineTurn s.scheduled
  | .reset => resetTurn s.scheduled

/-- `s` with a write of the command word `w` to CMD as the host's next operation, at the next turn: the block fetches
nothing itself (10_state.md R21), so this stands for loading a program and a schedule (log 4). The bits above `nbits`
are 0. -/
def State.withFetchWord (s : State) (nbits w : Nat) : State :=
  { s with
    program := HostOp.wr Reg.cmd.offset (BitVec.ofNat 32 (w % 2 ^ nbits)) :: s.program
    schedule := .host :: s.schedule }

end Sys2Proof.Machine
end

