-- ==== Sys2Proof/Safety.lean ====
section
/-! DEFINITION. What counts as a safe run and as a fair one, the invariant of the machine, and the words claims are stated in. -/

namespace Sys2Proof

open Sys2Proof.Machine

/-- The run of `n` steps from `s` goes on to the end: "no BusFault recorded" (60_exceptions.md R278). -/
def SafeRun (n : Nat) (s : State) : Prop := ∃ t, Host.Core.run Sys2Proof.core n s = .next t

/-- A state that some number of steps lead to. -/
def Reachable (s t : State) : Prop := ∃ n, Host.Core.run Sys2Proof.core n s = .next t

/-- Some number of steps from `s` lead to a state with `P`, or to the fault that ends the run (60_exceptions.md R278). -/
def Eventually (P : State → Prop) (s : State) : Prop :=
  ∃ n, (∃ t, Host.Core.run Sys2Proof.core n s = .next t ∧ P t) ∨ ∃ f, Host.Core.run Sys2Proof.core n s = .fault f

/-- The run from `s` is weakly fair to the engine (70_reset_and_hazards.md R306): wherever a completion step is enabled
(BUSY = 1), it is later taken, if no reset abandons the command before (R302) and no fault ends the run. -/
def WeaklyFair (s : State) : Prop :=
  ∀ t, Reachable s t → t.status.busy = true →
    Eventually (fun u => u.status.busy = true ∧ (u.nextTurn = .engine ∨ u.nextTurn = .reset)) t

/-- STATUS is consistent: ERRCODE is 0 without an error and one of 1..6 with one (60_exceptions.md R270), and a
command in flight has neither DONE nor ERR (10_state.md R26, R27). -/
abbrev StatusOk (st : Status) : Prop :=
  (st.err = false → st.errcode = 0) ∧ (st.err = true → 1 ≤ st.errcode.toNat ∧ st.errcode.toNat ≤ 6) ∧
  (st.busy = true → st.done = false ∧ st.err = false)

/-- The output registers are in the ranges the register map gives (10_state.md R36-R41). -/
abbrev OutputsOk (s : State) : Prop :=
  (∀ b < 4, (lane s.dSerial b).toNat ≤ 31) ∧
  (∀ b < 4, (lane s.dMaterial b).toNat ≤ 31) ∧
  lane s.dFields 0 &&& ~~~s.cfg.hmMask = 0 ∧
  (lane s.dFields 1).toNat ≤ 3 ∧ (lane s.dFields 2).toNat ≤ 3 ∧ (lane s.dFields 3).toNat ≤ 3 ∧
  s.dVersion.ver.toNat ≤ 3 ∧ s.dVersion.key.toNat ≤ 31 ∧
  s.dCheck.checksum1.toNat ≤ 31 ∧ s.dCheck.checksum2.toNat ≤ 31 ∧ s.dCheck.sum.toNat ≤ 403 ∧
  s.dCheck.sum.toNat = 16 * s.dCheck.checksum1.toNat + s.dCheck.checksum2.toNat ∧
  s.eInfo.shiftBase.toNat ≤ 31 ∧ s.eInfo.sum.toNat ≤ 403

/-- The invariant of the machine: STATUS is consistent, a command in flight has an OP in {1, 2, 3} (10_state.md R25),
and the outputs are in range. -/
abbrev MachineInvariant (s : State) : Prop :=
  StatusOk s.status ∧ (s.status.busy = true → s.latch.op ≠ 0) ∧ OutputsOk s

/-- The fields that are no registers of the block: the ROM, the host agent, the schedule and the count of resets. -/
abbrev SameSurroundings (s t : State) : Prop :=
  t.cfg = s.cfg ∧ t.program = s.program ∧ t.observed = s.observed ∧ t.schedule = s.schedule ∧ t.resets = s.resets

/-- The host-written input registers other than CODE (10_state.md R30-R34). -/
abbrev SameInputs (s t : State) : Prop :=
  t.serial = s.serial ∧ t.fields = s.fields ∧ t.material = s.material ∧ t.version = s.version ∧ t.key = s.key

/-- The outputs of DECODE (10_state.md R36-R40). -/
abbrev SameDecodeOutputs (s t : State) : Prop :=
  t.dSerial = s.dSerial ∧ t.dFields = s.dFields ∧ t.dMaterial = s.dMaterial ∧ t.dVersion = s.dVersion ∧
  t.dCheck = s.dCheck

/-- The next operation of the host is a bus write of `v` to the register `r`, and it is the host's turn. -/
abbrev HostWrites (s : State) (r : Reg) (v : Word) : Prop :=
  s.nextTurn = .host ∧ s.program.head? = some (HostOp.wr r.offset v)

/-- STATUS right after a successful completion (60_exceptions.md R271). -/
abbrev statusOk (st : Status) : Status := { busy := false, done := true, err := false, ovr := st.ovr, errcode := 0 }

/-- STATUS right after a completion with error code `e` (60_exceptions.md R270, R271). -/
abbrev statusErr (st : Status) (e : BitVec 4) : Status :=
  { busy := false, done := true, err := true, ovr := st.ovr, errcode := e }

/-- STATUS reports how the rule of a command ended: ERR with the error's code, or neither (10_state.md R27, R29). -/
def Reports {α : Type} (st : Status) : Except ErrCode α → Prop
  | .ok _ => st.err = false ∧ st.errcode = 0
  | .error e => st.err = true ∧ st.errcode = e.code

/-- The character at a canonical position (40_alphabet.md R101). -/
abbrev sym (c : Cfg) (p : Fin 32) : Byte := c.alphabet[p.val]

/-- The canonical value of a position (40_alphabet.md R103); a position above 34 has no character and counts as 31. -/
def canonAt (c : Cfg) (p : Nat) : Nat := if h : p < 35 then canon c ⟨p, h⟩ else 31

/-- `r` at a field index for the latched inputs `l` over the seed row of `d4` (41_seed.md R121; 42_embed.md R143,
R147). -/
def embeddedPosition (c : Cfg) (d4 : Fin 10) (l : Latch) (i : Idx) : Byte :=
  (~~~fieldMask c i &&& BitVec.ofNat 8 (canonAt c c.seed[d4][i]) &&& 0x1F) ||| rawValue l i

/-- The canonical value of the embedded position at a field index: what the checksum and the shift work on
(42_embed.md R145). -/
def workPosition (c : Cfg) (d4 : Fin 10) (l : Latch) (i : Idx) : Nat := canonAt c (embeddedPosition c d4 l i).toNat

/-- The latched serial lanes are these decimal digits (10_state.md R30). -/
abbrev SerialIs (l : Latch) (d : Digits) : Prop :=
  (lane l.serial 0).toNat = d.d1 ∧ (lane l.serial 1).toNat = d.d2 ∧ (lane l.serial 2).toNat = d.d3 ∧
  (lane l.serial 3).toNat = d.d4

end Sys2Proof
end

