-- ==== Sys2Proof/Certificates/Slice0/Obligations.lean ====
section
/-! DEFINITION. The statements about the Setupcode codec engine, for the provers. Each docstring names the rule of
spec/ it formalises; where it rests on a law the spec derives, or on the model's own fields, it says so. -/

open Sys2Proof Sys2Proof.Machine

/-! ### The command word -/

/-- 30_encoding.md R81: OP is bits 1:0, bits 31:2 take no part, and every word decodes to exactly one command. -/
def Obligations.EveryWordDecodesByItsLowTwoBits : Prop :=
  ∀ w : Word, ∃ r : BitVec 30,
    (w.extractLsb' 0 2 = 0 → decodeWord w = .nop r) ∧ (w.extractLsb' 0 2 = 1 → decodeWord w = .encode r) ∧
    (w.extractLsb' 0 2 = 2 → decodeWord w = .decode r) ∧ (w.extractLsb' 0 2 = 3 → decodeWord w = .reserved r)

/-- The words of opcode_table.json, and words with their ignored bits set, written out, decode to their commands. -/
def Obligations.WrittenOutWordsDecodeToTheirCommands : Prop :=
  decodeTableWord 32 0x00000000 = some (.nop 0) ∧ decodeTableWord 32 0x00000001 = some (.encode 0) ∧
  decodeTableWord 32 0x00000002 = some (.decode 0) ∧ decodeTableWord 32 0x00000003 = some (.reserved 0) ∧
  decodeTableWord 32 0xFFFFFFFC = some (.nop 0x3FFFFFFF) ∧ decodeTableWord 32 0xFFFFFFFD = some (.encode 0x3FFFFFFF) ∧
  decodeTableWord 32 0x00000006 = some (.decode 1) ∧ decodeTableWord 32 0x80000003 = some (.reserved 0x20000000)

/-- Decoding undoes encoding for every command and every value of the ignored bits, as a word and as bytes, and
encoding undoes decoding for every word (30_encoding.md, the one format of the command word). -/
def Obligations.DecodeUndoesEncode : Prop :=
  (∀ i : Instr, i.wellFormed = true → decodeWord (encode i) = i ∧
    ∀ rest : List Byte, decodeBytes (encodeBytes i ++ rest) = .ok (i, rest)) ∧
  ∀ w : Word, encode (decodeWord w) = w

/-- 10_state.md R23: a write to CMD issues the command its bits 1:0 select, bits 31:2 are ignored, a read of CMD
returns 0 and has no effect, and CMD keeps nothing of what is written. -/
def Obligations.CmdIssuesByItsLowBitsAndReadsZero : Prop :=
  (∀ (w : Word) (s : State), busWrite Reg.cmd.offset w s = exec (decodeWord w) s ∧
    (decodeWord w).op = w.extractLsb' 0 2 ∧ busRead Reg.cmd.offset s = 0) ∧
  (∀ (w w' : Word) (s : State), w.extractLsb' 0 2 = w'.extractLsb' 0 2 →
    busWrite Reg.cmd.offset w s = busWrite Reg.cmd.offset w' s) ∧
  ∀ s : State, s.nextTurn = .host → s.program.head? = some (HostOp.rd Reg.cmd.offset) →
    step s = .next { s with
      program := s.program.tail, schedule := s.schedule.tail
      observed := { off := 0x00, value := 0, expected := none } :: s.observed }

/-! ### A step -/

/-- A step runs the command the host writes to CMD, and the engine's step runs the command in the latch; what `step`
adds is that the turn is written down before (which changes nothing where the schedule names one), and that the host's
operation and the turn are used up. `withFetchWord` places a command where the next step runs it. (The schedule and the
program are the model's own fields, logs 3 and 4.) -/
def Obligations.StepRunsTheDecodedCommand : Prop :=
  (∀ (s : State) (w : Word), HostWrites s .cmd w → step s = mapNext retire (exec (decodeWord w) s.scheduled)) ∧
  (∀ s : State, s.nextTurn = .engine → s.status.busy = true →
    step s = mapNext endTurn (exec (decodeOp s.latch.op 0) s.scheduled)) ∧
  (∀ s : State, s.scheduled = { s with schedule := s.nextTurn :: s.schedule.tail } ∧
    ∀ a : Turn, s.turn = some a → s.nextTurn = a ∧ s.scheduled = s) ∧
  ∀ (s : State) (w : Word),
    step (s.withFetchWord 32 w.toNat) = mapNext retire (exec (decodeWord w) (s.withFetchWord 32 w.toNat))

/-- 20_memory.md R64: an access that is misaligned or not 32 bits wide is `BusFault(off)`. No other step faults, and no
step is refused. -/
def Obligations.StepFaultsExactlyOnBadAccesses : Prop :=
  (∀ (s : State) (off : Offset) (width : Nat), s.nextTurn = .host →
    (s.program.head? = some (.access (.read off width)) ∨
      ∃ v, s.program.head? = some (.access (.write off width v))) →
    (width ≠ 32 ∨ off.toNat % 4 ≠ 0) → step s = .fault (.busFault off)) ∧
  (∀ (s : State) (off : Offset) (v : Word), s.nextTurn = .host → s.program.head? = some (.expect off v) →
    off.toNat % 4 ≠ 0 → step s = .fault (.busFault off)) ∧
  (∀ (s : State) (f : Fault), step s = .fault f → ∃ off : Offset, f = .busFault off ∧ s.nextTurn = .host ∧
    ((∃ width, (width ≠ 32 ∨ off.toNat % 4 ≠ 0) ∧ (s.program.head? = some (.access (.read off width)) ∨
        ∃ v, s.program.head? = some (.access (.write off width v)))) ∨
      (off.toNat % 4 ≠ 0 ∧ ∃ v, s.program.head? = some (.expect off v)))) ∧
  ∀ (s : State) (q : Refusal), step s ≠ .refused q

/-- 00_scope.md R6 and 70_reset_and_hazards.md R301: no step, a reset included, changes a ROM table or any other
parameter of the configuration. -/
def Obligations.NoStepChangesTheConfiguration : Prop :=
  (∀ s t : State, step s = .next t → t.cfg = s.cfg) ∧ ∀ s : State, (resetBlock s).cfg = s.cfg

/-! ### The register window -/

/-- 10_state.md R42: every offset R22 does not list reads 0 and ignores writes, and so do the reserved bits of the
listed registers. -/
def Obligations.ReservedSpaceReadsZeroAndIgnoresWrites : Prop :=
  (∀ off : Offset, off.toNat ∉ [0x00, 0x04, 0x08, 0x0C, 0x10, 0x14, 0x18, 0x20, 0x24, 0x28, 0x2C, 0x30, 0x40, 0x44,
      0x48, 0x4C, 0x50, 0x54] → ∀ (s : State) (v : Word), busRead off s = 0 ∧ busWrite off v s = .next s) ∧
  (∀ s : State, (busRead 0x00 s).extractLsb' 2 30 = 0 ∧
    (busRead 0x04 s).extractLsb' 4 4 = 0 ∧ (busRead 0x04 s).extractLsb' 12 20 = 0 ∧
    (busRead 0x14 s).extractLsb' 8 24 = 0 ∧ (busRead 0x30 s).extractLsb' 24 8 = 0 ∧
    (busRead 0x4C s).extractLsb' 16 16 = 0 ∧ (busRead 0x54 s).extractLsb' 8 8 = 0) ∧
  ∀ (v v' : Word) (s : State), busWrite 0x4C v s = .next s ∧ busWrite 0x54 v s = .next s ∧
    (v.extractLsb' 0 2 = v'.extractLsb' 0 2 → busWrite 0x00 v s = busWrite 0x00 v' s) ∧
    (v.extractLsb' 1 3 = v'.extractLsb' 1 3 → busWrite 0x04 v s = busWrite 0x04 v' s) ∧
    (v.extractLsb' 0 8 = v'.extractLsb' 0 8 → busWrite 0x14 v s = busWrite 0x14 v' s) ∧
    (v.extractLsb' 0 24 = v'.extractLsb' 0 24 → busWrite 0x30 v s = busWrite 0x30 v' s)

/-- The registers a host write stores into (10_state.md R22). -/
def rwRegisters : List Reg :=
  [.serial, .fields, .material, .version, .key, .code0, .code1, .code2, .code3, .code4]

/-- The read-only registers (10_state.md R22). -/
def roRegisters : List Reg := [.dSerial, .dFields, .dMaterial, .dVersion, .dCheck, .eInfo]

/-- The bits of a register that have storage when written (10_state.md R33, R35). -/
def writtenBits (r : Reg) (v : Word) : Word :=
  if r = .version then v &&& 0x000000FF else if r = .code4 then v &&& 0x00FFFFFF else v

/-- 10_state.md R22: the window at `P_BASE` and the offsets, every other one reserved; an RW register reads back what was
written, less its reserved bits, and the write changes no other register, not the latch and not the surroundings; an RO
register ignores writes; STATUS is write-one-to-clear; CMD reads 0; after reset the whole window reads 0. CODE is
DECODE's input (it is latched) and ENCODE's output. -/
def Obligations.RegisterMapReadsAndWrites : Prop :=
  [Reg.cmd, .status, .serial, .fields, .material, .version, .key, .code0, .code1, .code2, .code3, .code4, .dSerial,
    .dFields, .dMaterial, .dVersion, .dCheck, .eInfo].map Reg.offset =
    [0x00, 0x04, 0x08, 0x0C, 0x10, 0x14, 0x18, 0x20, 0x24, 0x28, 0x2C, 0x30, 0x40, 0x44, 0x48, 0x4C, 0x50, 0x54] ∧
  (∀ (c : Cfg) (off : Offset), busAddress c off = c.base + off.toNat ∧ off.toNat < 256) ∧
  (∀ off : Offset, (∀ r : Reg, off ≠ r.offset) → Reg.ofOffset off = none) ∧
  (∀ (v : Word) (s : State), busRead Reg.cmd.offset s = 0 ∧
    busWrite Reg.status.offset v s = .next { s with status := s.status.writeOneToClear v }) ∧
  (∀ r ∈ rwRegisters, ∀ (v : Word) (s : State), ∃ t, busWrite r.offset v s = .next t ∧
    busRead r.offset t = writtenBits r v ∧ (∀ off : Offset, off ≠ r.offset → busRead off t = busRead off s) ∧
    t.latch = s.latch ∧ SameSurroundings s t) ∧
  (∀ r ∈ roRegisters, ∀ (v : Word) (s : State), busWrite r.offset v s = .next s) ∧
  (∀ (c : Cfg) (off : Offset), busRead off (State.resetWith c) = 0) ∧
  (∀ (op : BitVec 2) (s : State), codeOf (accept op s).latch = s.code) ∧
  ∀ (r : EncodeResult) (s : State), (writeEncodeOutputs r s).code.char = r.chars

/-- 10_state.md R24: the fields of STATUS, their bits and access. A write clears the W1C bits written as 1 (clearing
ERR sets ERRCODE to 0, R27) and changes nothing else. -/
def Obligations.StatusFieldsAndWriteOneToClear : Prop :=
  (∀ s : State, (busRead 0x04 s).extractLsb' 0 1 = BitVec.ofBool s.status.busy ∧
    (busRead 0x04 s).extractLsb' 1 1 = BitVec.ofBool s.status.done ∧
    (busRead 0x04 s).extractLsb' 2 1 = BitVec.ofBool s.status.err ∧
    (busRead 0x04 s).extractLsb' 3 1 = BitVec.ofBool s.status.ovr ∧ (busRead 0x04 s).extractLsb' 4 4 = 0 ∧
    (busRead 0x04 s).extractLsb' 8 4 = s.status.errcode ∧ (busRead 0x04 s).extractLsb' 12 20 = 0) ∧
  (∀ (v : Word) (s : State), ∃ t, busWrite 0x04 v s = .next t ∧ t = { s with status := t.status } ∧
    t.status.busy = s.status.busy ∧
    (v.getLsbD 1 = true → t.status.done = false) ∧ (v.getLsbD 1 = false → t.status.done = s.status.done) ∧
    (v.getLsbD 2 = true → t.status.err = false ∧ t.status.errcode = 0) ∧
    (v.getLsbD 2 = false → t.status.err = s.status.err ∧ t.status.errcode = s.status.errcode) ∧
    (v.getLsbD 3 = true → t.status.ovr = false) ∧ (v.getLsbD 3 = false → t.status.ovr = s.status.ovr)) ∧
  ∀ c : Cfg, (State.resetWith c).status = { busy := false, done := false, err := false, ovr := false, errcode := 0 }

/-- 20_memory.md R61, R62: byte lane `b` of the register at `o` is bits `[8b+7:8b]` and sits at `o + b`; so `code[i]`
sits at 0x20 + i, and the byte at 0x33 reads 0 and keeps nothing of a write. -/
def Obligations.WindowIsLittleEndian : Prop :=
  (∀ (r : Reg) (b : Nat) (s : State), b < 4 →
    windowByte (r.offset + BitVec.ofNat 8 b) s = (busRead r.offset s).extractLsb' (8 * b) 8) ∧
  (∀ (s : State) (i : Idx), windowByte (0x20 + BitVec.ofNat 8 i) s = s.code.char i ∧ windowByte 0x33 s = 0) ∧
  ∀ (s : State) (b3 b3' b2 b1 b0 : Byte),
    busWrite 0x30 (b3 ++ b2 ++ b1 ++ b0) s = busWrite 0x30 (b3' ++ b2 ++ b1 ++ b0) s

/-- 20_memory.md R65: reads have no side effect on any register; a write to an RW register stores its value, changes
nothing else and is idempotent; writes to RO registers and reserved offsets are ignored; a second CMD write issues a second command or sets OVR. -/
def Obligations.SideEffectsOfAccesses : Prop :=
  (∀ (s : State) (off : Offset), s.nextTurn = .host → s.program.head? = some (HostOp.rd off) → off.toNat % 4 = 0 →
    step s = .next { s with
      program := s.program.tail, schedule := s.schedule.tail
      observed := { off := off, value := busRead off s, expected := none } :: s.observed }) ∧
  (∀ r ∈ rwRegisters, ∀ (v : Word) (s : State), ∃ t, busWrite r.offset v s = .next t ∧
    busRead r.offset t = writtenBits r v ∧ (∀ off : Offset, off ≠ r.offset → busRead off t = busRead off s) ∧
    t.status = s.status ∧ SameDecodeOutputs s t ∧ t.eInfo = s.eInfo ∧ t.latch = s.latch ∧ SameSurroundings s t ∧
    busWrite r.offset v t = .next t) ∧
  (∀ (off : Offset) (v : Word) (s : State),
    (∀ r, off = r.offset → r ∈ roRegisters) → busWrite off v s = .next s) ∧
  (∀ (v : Word) (s : State), busWrite Reg.status.offset v s =
    .next { s with status := s.status.writeOneToClear v } ∧ busWrite Reg.cmd.offset v s = exec (decodeWord v) s) ∧
  ∀ (i j : Instr) (s t : State), i.op ≠ 0 → j.op ≠ 0 → s.turn = some .host → exec i s = .next t →
    exec j t = .next { t with status := { t.status with ovr := true } }

/-! ### Issue and the life of STATUS -/

/-- 46_commands.md R230: a write of OP 0 changes nothing; one of OP 1..3 while busy sets OVR and nothing else; one
while idle latches OP and every input register, clears DONE, ERR and ERRCODE and sets BUSY. The completion step is
enabled exactly when BUSY = 1, runs the rule for L.OP to its end in one step, and clears BUSY. -/
def Obligations.CommandAcceptanceAndCompletion : Prop :=
  (∀ (i : Instr) (s : State), s.turn = some .host →
    (i.op = 0 → exec i s = .next s) ∧
    (i.op ≠ 0 → s.status.busy = true → exec i s = .next { s with status := { s.status with ovr := true } }) ∧
    (i.op ≠ 0 → s.status.busy = false → exec i s = .next { s with
      latch := { op := i.op, serial := s.serial, fields := s.fields, material := s.material, version := s.version
                 key := s.key, code0 := s.code.code0, code1 := s.code.code1, code2 := s.code.code2
                 code3 := s.code.code3, code4 := s.code.code4 }
      status := { busy := true, done := false, err := false, ovr := s.status.ovr, errcode := 0 } })) ∧
  ∀ s : State, s.nextTurn = .engine →
    (s.status.busy = false → step s = .next { s with schedule := s.schedule.tail }) ∧
    (s.status.busy = true → s.latch.op ≠ 0 → ∃ i t, i.op = s.latch.op ∧ exec i s.scheduled = .next t ∧
      step s = .next { t with schedule := t.schedule.tail } ∧ t.status.busy = false ∧ t.status.done = true)

/-- 10_state.md R25: BUSY is set exactly when a command with OP in {1, 2, 3} is written while idle; only a completion
step (or a reset) clears it, and the completion step does; no other host write changes it; and while it is 1 the
command in the latch stays. -/
def Obligations.BusyIsSetByAcceptanceAndClearedByCompletion : Prop :=
  ∀ s t : State, step s = .next t →
    (∀ w : Word, HostWrites s .cmd w → w.extractLsb' 0 2 ≠ 0 → t.status.busy = true) ∧
    (s.status.busy = false → t.status.busy = true → ∃ w : Word, HostWrites s .cmd w ∧ w.extractLsb' 0 2 ≠ 0) ∧
    (s.nextTurn = .engine → s.latch.op ≠ 0 → t.status.busy = false) ∧
    (s.status.busy = true → t.status.busy = false → s.nextTurn = .engine ∨ s.nextTurn = .reset) ∧
    (s.status.busy = true → s.nextTurn = .host → t.status.busy = true ∧ t.latch = s.latch)

/-- 10_state.md R26: DONE is cleared by an acceptance and by a host write of 1 to bit 1, and set by a completion,
successful or not; nothing else but a reset changes it. -/
def Obligations.DoneIsSetByCompletionOnly : Prop :=
  ∀ s t : State, step s = .next t →
    (∀ w : Word, HostWrites s .cmd w → w.extractLsb' 0 2 ≠ 0 → s.status.busy = false → t.status.done = false) ∧
    (∀ v : Word, HostWrites s .status v → v.getLsbD 1 = true → t.status.done = false) ∧
    (s.nextTurn = .engine → s.status.busy = true → s.latch.op ≠ 0 → t.status.done = true) ∧
    (s.status.done = false → t.status.done = true → s.nextTurn = .engine ∧ s.status.busy = true) ∧
    (s.status.done = true → t.status.done = false → s.nextTurn = .reset ∨
      (∃ w : Word, HostWrites s .cmd w ∧ w.extractLsb' 0 2 ≠ 0 ∧ s.status.busy = false) ∨
      ∃ v : Word, HostWrites s .status v ∧ v.getLsbD 1 = true)

/-- 10_state.md R27, R29: ERR and ERRCODE are cleared by an acceptance and by a host write of 1 to bit 2; a completion
whose rule raises an error sets ERR and the error's code of 60_exceptions.md R270, one whose rule succeeds leaves both
0, and the reserved command always ends with ILLEGAL_COMMAND; nothing else but a reset changes them. -/
def Obligations.ErrAndErrcodeDescribeTheLastCompletion : Prop :=
  (ErrCode.illegalCommand.code = 1 ∧ ErrCode.unimplementedCodeType.code = 2 ∧ ErrCode.fieldRange.code = 3 ∧
    ErrCode.shiftBaseOverflow.code = 4 ∧ ErrCode.checksumMismatch.code = 5 ∧ ErrCode.invalidCodeType.code = 6) ∧
  ∀ s t : State, step s = .next t →
    (∀ w : Word, HostWrites s .cmd w → w.extractLsb' 0 2 ≠ 0 → s.status.busy = false →
      t.status.err = false ∧ t.status.errcode = 0) ∧
    (∀ v : Word, HostWrites s .status v → v.getLsbD 2 = true → t.status.err = false ∧ t.status.errcode = 0) ∧
    (s.nextTurn = .engine → s.status.busy = true →
      (s.latch.op = 1 → Reports t.status (encodeFields s.cfg s.latch)) ∧
      (s.latch.op = 2 → Reports t.status (decodeCode s.cfg (codeOf s.latch).char)) ∧
      (s.latch.op = 3 → t.status.err = true ∧ t.status.errcode = 1)) ∧
    (s.nextTurn = .engine → s.status.busy = true → s.latch.op ≠ 0 →
      (t.status.err = false ∧ t.status.errcode = 0) ∨
      (t.status.err = true ∧ ((s.latch.op = 1 ∧ t.status.errcode ∈ [2, 3, 4]) ∨
        (s.latch.op = 2 ∧ t.status.errcode ∈ [5, 6]) ∨ (s.latch.op = 3 ∧ t.status.errcode = 1)))) ∧
    (s.status.err = false → t.status.err = true → s.nextTurn = .engine ∧ s.status.busy = true) ∧
    ((t.status.err ≠ s.status.err ∨ t.status.errcode ≠ s.status.errcode) →
      s.nextTurn = .reset ∨ (s.nextTurn = .engine ∧ s.status.busy = true) ∨
      (∃ w : Word, HostWrites s .cmd w ∧ w.extractLsb' 0 2 ≠ 0 ∧ s.status.busy = false) ∨
      ∃ v : Word, HostWrites s .status v ∧ v.getLsbD 2 = true)

/-- 10_state.md R28: OVR is set when a command with OP in {1, 2, 3} is written while BUSY = 1, and that command is
dropped; it stays 1 until the host writes 1 to bit 3 (or a reset). Accepting or completing a command does not change
it. -/
def Obligations.OvrIsStickyUntilCleared : Prop :=
  ∀ s t : State, step s = .next t →
    (∀ w : Word, HostWrites s .cmd w → w.extractLsb' 0 2 ≠ 0 → s.status.busy = true →
      t = retire { s with status := { s.status with ovr := true } }) ∧
    (s.status.ovr = false → t.status.ovr = true →
      s.status.busy = true ∧ ∃ w : Word, HostWrites s .cmd w ∧ w.extractLsb' 0 2 ≠ 0) ∧
    (s.status.ovr = true → t.status.ovr = false → s.nextTurn = .reset ∨
      ∃ v : Word, HostWrites s .status v ∧ v.getLsbD 3 = true) ∧
    (∀ v : Word, HostWrites s .status v → v.getLsbD 3 = true → t.status.ovr = false)

/-- 46_commands.md R232: NOP has no effect, at any turn and also while busy: no flag, not the latch, no register. The
host's write of it only uses up the host's operation and turn. -/
def Obligations.NopChangesNothing : Prop :=
  (∀ (r : BitVec 30) (s : State), exec (.nop r) s = .next s) ∧
  ∀ (s : State) (w : Word), HostWrites s .cmd w → w.extractLsb' 0 2 = 0 → step s = .next (retire s)

/-- 46_commands.md R233: the words with bits 1:0 = 3 are the reserved command; it is accepted like any command, and it
always completes with ILLEGAL_COMMAND, changing nothing but STATUS. -/
def Obligations.ReservedCompletesWithIllegalCommand : Prop :=
  (∀ w : Word, w.extractLsb' 0 2 = 3 → ∃ r, decodeWord w = .reserved r) ∧
  (∀ (r : BitVec 30) (s : State), s.turn = some .host → s.status.busy = false →
    exec (.reserved r) s = .next { s with
      latch := s.latchOf 3
      status := { busy := true, done := false, err := false, ovr := s.status.ovr, errcode := 0 } }) ∧
  ∀ (r : BitVec 30) (s : State), s.turn = some .engine →
    exec (.reserved r) s = .next { s with
      status := { busy := false, done := true, err := true, ovr := s.status.ovr, errcode := 1 } }

/-! ### The alphabet and the seed -/

/-- 40_alphabet.md R101: the forward lookup. -/
def Obligations.CharOfIsADirectIndex : Prop :=
  ∀ (c : Cfg) (p : Nat), (∀ h : p ≤ 34, charOf c p = .ok (c.alphabet[p]'(by omega))) ∧
    (34 < p → charOf c p = .error .fieldRange)

/-- 40_alphabet.md R102: the inverse lookup answers the first canonical position of a byte, and 31 for a byte that has
none. -/
def Obligations.PositionOfIsTheFirstCanonicalMatch : Prop :=
  ∀ (c : Cfg) (ch : Byte),
    (∀ i : Fin 32, sym c i = ch → (∀ j : Fin 32, j < i → sym c j ≠ ch) → positionOf c ch = i) ∧
    ((∀ i : Fin 32, sym c i ≠ ch) → positionOf c ch = 31)

/-- A law 40_alphabet.md derives ("[derived: from rule R101 and rule R102]"): under `WF`, reading back the character of
a canonical position gives the position, and reading back any character gives a position 0..31. -/
def Obligations.CanonIsTheIdentityOnCanonicalPositions : Prop :=
  ∀ c : Cfg, c.AlphabetOk →
    (∀ p : Fin 35, p.val < 32 → canon c p = p) ∧ (∀ p : Fin 32, positionOf c (sym c p) = p) ∧
    (∀ ch : Byte, positionOf c ch ≤ 31) ∧ positionOf c SEP = 31

/-- 41_seed.md R121: the seed sequence of a digit, with the separators at 4, 9 and 14; it raises nothing when every
seed entry is in 0..34. -/
def Obligations.SeedSequenceFromItsRow : Prop :=
  ∀ (c : Cfg) (d4 : Fin 10), c.SeedOk → ∃ s : Idx → Byte, seedSequence c d4 = .ok s ∧
    ∀ i : Idx, ((i = 4 ∨ i = 9 ∨ i = 14) → s i = SEP) ∧
      (i ≠ 4 → i ≠ 9 → i ≠ 14 → charOf c c.seed[d4][i] = .ok (s i))

/-! ### The embedder and the checksum -/

/-- 42_embed.md R143: `embed` merges the value into the seed position under the mask, and raises FIELD_RANGE exactly
when the result is above 34. -/
def Obligations.EmbedMergesUnderTheMask : Prop :=
  ∀ (c : Cfg) (seedChar raw mask : Byte), ∀ r : Nat,
    r = ((255 - mask.toNat) &&& positionOf c seedChar &&& 0x1F) ||| raw.toNat →
    (∀ h : r ≤ 34, embed c seedChar raw mask = .ok (c.alphabet[r]'(by omega))) ∧
    (34 < r → embed c seedChar raw mask = .error .fieldRange)

/-- 42_embed.md R147: the embedding step writes the 13 field indices from the latched lanes under their masks and keeps
the other six; it raises FIELD_RANGE exactly when one of the embeds does, in whatever order they are evaluated, which the
spec derives ("has no visible effect"). -/
def Obligations.EmbedAllFollowsTheLayout : Prop :=
  ∀ (c : Cfg) (s : Idx → Byte) (l : Latch),
    (∀ e : Idx → Byte, embedAll c s l = .ok e →
      embed c (s 0) (lane l.serial 0) 0x1F = .ok (e 0) ∧ embed c (s 1) (lane l.fields 0) c.hmMask = .ok (e 1) ∧
      embed c (s 2) (lane l.fields 1) 0x03 = .ok (e 2) ∧ embed c (s 3) (lane l.fields 2) 0x03 = .ok (e 3) ∧
      embed c (s 5) (lane l.material 0) 0x1F = .ok (e 5) ∧ embed c (s 6) (lane l.serial 1) 0x1F = .ok (e 6) ∧
      embed c (s 10) (lane l.material 1) 0x1F = .ok (e 10) ∧ embed c (s 11) (lane l.material 2) 0x1F = .ok (e 11) ∧
      embed c (s 12) (lane l.serial 2) 0x1F = .ok (e 12) ∧ embed c (s 13) l.version 0x03 = .ok (e 13) ∧
      embed c (s 15) (lane l.fields 3) 0x03 = .ok (e 15) ∧ embed c (s 16) (lane l.material 3) 0x1F = .ok (e 16) ∧
      embed c (s 18) (lane l.serial 3) 0x1F = .ok (e 18) ∧
      e 4 = s 4 ∧ e 7 = s 7 ∧ e 8 = s 8 ∧ e 9 = s 9 ∧ e 14 = s 14 ∧ e 17 = s 17) ∧
    ((∀ i ∈ fieldIdx, ∃ ch, embed c (s i) (rawValue l i) (fieldMask c i) = .ok ch) → ∃ e, embedAll c s l = .ok e) ∧
    ((∃ i ∈ fieldIdx, embed c (s i) (rawValue l i) (fieldMask c i) = .error .fieldRange) →
      embedAll c s l = .error .fieldRange)

/-- 43_checksum.md R161: the checksum write passes each nibble of the sum, `(S >> 4) & 0xF` and `S & 0xF`, through
`shift(0, nibble)`, writes their characters at 7 and 8, and changes no other index; the shift step leaves both. -/
def Obligations.ChecksumWriteStoresTheTwoNibbles : Prop :=
  ∀ (c : Cfg) (sum : Nat) (e : Idx → Byte), ∃ e' : Idx → Byte, writeChecksum c sum e = .ok e' ∧
    charOf c (shift 0 ((sum >>> 4) &&& 0xF)) = .ok (e' 7) ∧ charOf c (shift 0 (sum &&& 0xF)) = .ok (e' 8) ∧
    (∀ i : Idx, i ≠ 7 → i ≠ 8 → e' i = e i) ∧
    ∀ base chars, forwardShift c base e' = .ok chars → chars 7 = e' 7 ∧ chars 8 = e' 8

/-! ### The shift engine and the serial normalizer -/

/-- 44_shift.md R183: five subtractions of 32 are allowed, so `reduce` is `mod 32` below 192 and overflows from 192
on. -/
def Obligations.ReduceOverflowsFrom192 : Prop :=
  ∀ pre : Nat, (pre < 192 → reduce pre = .ok (pre % 32)) ∧ (192 ≤ pre → reduce pre = .error .shiftBaseOverflow)

/-- Laws 44_shift.md derives from its rules for `shift` and `unshift`: each is an addition or a subtraction of the
reduced offset, mod 32. The reduction of the offset itself (R185) has a strict threshold. -/
def Obligations.ShiftIsAdditionModulo32 : Prop :=
  (∀ k : Nat, red k = if 32 < k then k % 10 else k) ∧
  ∀ k p : Nat, p ≤ 31 → shift k p = (p + red k) % 32 ∧ unshift k p = (p + 64 - red k) % 32

/-- A law 44_shift.md derives: for every offset the unshift undoes the shift and the shift undoes the unshift on
0..31, and both stay in 0..31. -/
def Obligations.UnshiftUndoesShift : Prop :=
  ∀ k p : Nat, p ≤ 31 → unshift k (shift k p) = p ∧ shift k (unshift k p) = p ∧ shift k p ≤ 31 ∧ unshift k p ≤ 31

/-- 44_shift.md R187: the forward shift moves the 13 shiftable indices by `B + P_MAGIC[i]` and leaves the separators,
the checksum and the shift-base symbol. -/
def Obligations.ForwardShiftMovesTheShiftableIndices : Prop :=
  ∀ (c : Cfg) (base : Nat) (e : Idx → Byte), ∃ chars : Idx → Byte, forwardShift c base e = .ok chars ∧
    ∀ i : Idx,
      (i ∈ [0, 1, 2, 3, 5, 6, 10, 11, 12, 13, 15, 16, 18] →
        charOf c (shift (base + (c.magic[i]).toNat) (positionOf c (e i))) = .ok (chars i)) ∧
      (i ∈ [4, 7, 8, 9, 14, 17] → chars i = e i)

/-- 44_shift.md R189: the inverse shift; the raw positions of the separators are read by no later step. -/
def Obligations.InverseShiftRecoversTheRawArray : Prop :=
  (∀ (c : Cfg) (code : Idx → Byte) (i : Idx),
    (i ∈ [0, 1, 2, 3, 5, 6, 10, 11, 12, 13, 15, 16, 18] → inverseShift c code i =
      unshift (positionOf c (code 17) + (c.magic[i]).toNat) (positionOf c (code i))) ∧
    (i ∈ [7, 8, 17] → inverseShift c code i = positionOf c (code i))) ∧
  ∀ (c : Cfg) (raw raw' : Idx → Nat), (∀ i : Idx, i ≠ 4 → i ≠ 9 → i ≠ 14 → raw i = raw' i) →
    verify raw = verify raw' ∧ (c.InRange → validateCodeType c raw = validateCodeType c raw') ∧
    ∀ (sum : Nat) (s : State), writeDecodeOutputs { raw := raw, sum := sum } s =
      writeDecodeOutputs { raw := raw', sum := sum } s

/-- 45_serial_normalizer.md R215, with R211-R214 and R216: the sum runs over the digits from the first non-zero one on,
so a leading zero contributes nothing and an embedded or trailing zero its table entry; the correction is
unconditional; the code type has no effect; the serial 0000 has the empty sum. -/
def Obligations.SerialNormalizerSumsSignificantDigits : Prop :=
  ∀ (c : Cfg) (d : Digits) (ct : Fin 4), (∀ ct' : Fin 4, snNorm c d ct' = snNorm c d ct) ∧
    ∃ sum : Nat, snNorm c d ct = sum + (c.snMod[sum % 10]'(Nat.mod_lt _ (by decide))).toNat ∧
      (d.d1 ≠ 0 → sum = (c.sn[0][d.d1]).toNat + (c.sn[1][d.d2]).toNat + (c.sn[2][d.d3]).toNat +
        (c.sn[3][d.d4]).toNat) ∧
      (d.d1 = 0 → d.d2 ≠ 0 → sum = (c.sn[1][d.d2]).toNat + (c.sn[2][d.d3]).toNat + (c.sn[3][d.d4]).toNat) ∧
      (d.d1 = 0 → d.d2 = 0 → d.d3 ≠ 0 → sum = (c.sn[2][d.d3]).toNat + (c.sn[3][d.d4]).toNat) ∧
      (d.d1 = 0 → d.d2 = 0 → d.d3 = 0 → d.d4 ≠ 0 → sum = (c.sn[3][d.d4]).toNat) ∧
      (d.d1 = 0 → d.d2 = 0 → d.d3 = 0 → d.d4 = 0 → sum = 0)

/-- The serial number of four digits, D1 most significant (10_state.md R30). -/
def serialNumber (d : Digits) : Nat := 1000 * d.d1.val + 100 * d.d2.val + 10 * d.d3.val + d.d4.val

/-- 44_shift.md R180, R181, R182: the shift-base sum, the 4 added for an odd serial number, and the non-zero key that
replaces both. -/
def Obligations.ShiftBaseSumOddCorrectionAndKey : Prop :=
  ∀ (c : Cfg) (ct : Fin 4) (hm : Fin c.hmCount) (d : Digits) (key : Word),
    (key = 0 → serialNumber d % 2 = 0 →
      shiftBaseSum c ct hm d key = (c.ctTable[ct]).toNat + (c.hmTable[hm]).toNat + snNorm c d ct) ∧
    (key = 0 → serialNumber d % 2 = 1 →
      shiftBaseSum c ct hm d key = (c.ctTable[ct]).toNat + (c.hmTable[hm]).toNat + snNorm c d ct + 4) ∧
    (key ≠ 0 → shiftBaseSum c ct hm d key = key.toNat)

/-! ### ENCODE -/

/-- What 46_commands.md R240, R241 and 42_embed.md R145 ask of the latched inputs: the configuration code type, four
decimal digits, a hardware-model id with a table entry, and embedded positions that have a character. -/
structure EncodeInputsOk (c : Cfg) (l : Latch) (d : Digits) (hm : Fin c.hmCount) : Prop where
  codeType : (lane l.fields 3).toNat = c.ctConfigId
  serial : SerialIs l d
  hardwareModel : (lane l.fields 0).toNat = hm
  embedded : ∀ i ∈ fieldIdx, (embeddedPosition c d.d4 l i).toNat ≤ 34

/-- 46_commands.md R247: a completion of ENCODE that succeeds writes the 19 characters (42_embed.md R140,
43_checksum.md R160, 44_shift.md R184, R187) and E_INFO, reports success in STATUS, and changes nothing else; every
byte of the window outside 0x20..0x32, E_INFO and STATUS reads as before, and the byte at 0x33 reads 0. It succeeds on
every input that passes the checks and needs at most five subtractions. A completion with an error writes no
register. -/
def Obligations.EncodeWritesTheCode : Prop :=
  (∀ (r : BitVec 30) (s : State) (d : Digits) (hm : Fin s.cfg.hmCount), s.turn = some .engine → s.cfg.SeedOk →
    EncodeInputsOk s.cfg s.latch d hm → shiftBaseSum s.cfg s.cfg.ctConfigId hm d s.latch.key < 192 →
    ∀ sum base : Nat, sum = (fieldIdx.map (workPosition s.cfg d.d4 s.latch)).sum →
      base = shiftBaseSum s.cfg s.cfg.ctConfigId hm d s.latch.key % 32 →
    ∃ t, exec (.encode r) s = .next t ∧
      (∀ i ∈ fieldIdx, charOf s.cfg (shift (base + (s.cfg.magic[i]).toNat) (workPosition s.cfg d.d4 s.latch i)) =
        .ok (t.code.char i)) ∧
      t.code.char 4 = SEP ∧ t.code.char 9 = SEP ∧ t.code.char 14 = SEP ∧
      charOf s.cfg (sum / 16 % 16) = .ok (t.code.char 7) ∧ charOf s.cfg (sum % 16) = .ok (t.code.char 8) ∧
      charOf s.cfg base = .ok (t.code.char 17) ∧
      t.eInfo.shiftBase.toNat = base ∧ t.eInfo.sum.toNat = sum ∧
      t = { s with code := t.code, eInfo := t.eInfo, status := statusOk s.status } ∧
      (∀ a : Offset, (∀ i : Idx, a ≠ charOffset i) → a &&& 0xFC ≠ Reg.eInfo.offset → a &&& 0xFC ≠ Reg.status.offset →
        windowByte a t = windowByte a s) ∧ windowByte 0x33 t = 0) ∧
  ∀ (r : BitVec 30) (s t : State), s.turn = some .engine → exec (.encode r) s = .next t → t.status.err = true →
    t = { s with status := t.status }

/-- 60_exceptions.md R273: the errors of ENCODE, the first that applies being reported: UNIMPLEMENTED_CODE_TYPE (2),
then FIELD_RANGE (3), from the range checks or from an embedded position above 34, then SHIFT_BASE_OVERFLOW (4). -/
def Obligations.EncodeErrorsInOrder : Prop :=
  ∀ (r : BitVec 30) (s : State), s.turn = some .engine →
    ((lane s.latch.fields 3).toNat ≠ s.cfg.ctConfigId →
      exec (.encode r) s = .next { s with status := statusErr s.status 2 }) ∧
    ((lane s.latch.fields 3).toNat = s.cfg.ctConfigId →
      ((∃ k < 4, 9 < (lane s.latch.serial k).toNat) ∨ s.cfg.hmCount ≤ (lane s.latch.fields 0).toNat) →
      exec (.encode r) s = .next { s with status := statusErr s.status 3 }) ∧
    (∀ (d : Digits) (hm : Fin s.cfg.hmCount), (lane s.latch.fields 3).toNat = s.cfg.ctConfigId →
      SerialIs s.latch d → (lane s.latch.fields 0).toNat = hm → s.cfg.SeedOk →
      (∃ i ∈ fieldIdx, 34 < (embeddedPosition s.cfg d.d4 s.latch i).toNat) →
      exec (.encode r) s = .next { s with status := statusErr s.status 3 }) ∧
    (∀ (d : Digits) (hm : Fin s.cfg.hmCount), s.cfg.SeedOk → EncodeInputsOk s.cfg s.latch d hm →
      192 ≤ shiftBaseSum s.cfg s.cfg.ctConfigId hm d s.latch.key →
      exec (.encode r) s = .next { s with status := statusErr s.status 4 })

/-- A law 44_shift.md derives ("Key-override determinism (derived)"): two ENCODEs that differ only in their non-zero
keys have the same checksum, and the same code exactly when their keys reduce to the same shift base. -/
def Obligations.KeysWithOneShiftBaseGiveOneCode : Prop :=
  ∀ (c : Cfg) (l : Latch) (k k' : Word) (r r' : EncodeResult), c.AlphabetOk → k ≠ 0 → k' ≠ 0 →
    encodeFields c { l with key := k } = .ok r → encodeFields c { l with key := k' } = .ok r' →
    r.sum = r'.sum ∧ r.chars 7 = r'.chars 7 ∧ r.chars 8 = r'.chars 8 ∧
    (r.chars = r'.chars ↔ reduce k.toNat = reduce k'.toNat)

/-- An invariant 40_alphabet.md derives ("Output-domain invariant"): every character ENCODE writes is the separator or a
canonical character, so none at a field index is an alias only. -/
def Obligations.EncodeWritesCanonicalCharactersOnly : Prop :=
  ∀ (c : Cfg) (l : Latch) (r : EncodeResult) (i : Idx), encodeFields c l = .ok r →
    ((i = 4 ∨ i = 9 ∨ i = 14) ∧ r.chars i = SEP) ∨ ∃ p : Fin 32, r.chars i = sym c p

/-- A law 41_seed.md derives ("What of the seed reaches the output"): only the bits of the canonical seed positions
outside the field masks at 1, 2, 3, 13 and 15, in the row of the last serial digit, reach the output of ENCODE. -/
def Obligations.OnlyUnmaskedSeedBitsReachTheCode : Prop :=
  ∀ (c : Cfg) (seed : Vector (Vector Nat 19) 10) (l : Latch), c.SeedOk → { c with seed := seed }.SeedOk →
    (∀ (d4 : Fin 10) (i : Idx), (lane l.serial 3).toNat = d4 → i ∈ ([1, 2, 3, 13, 15] : List Idx) →
      BitVec.ofNat 8 (canonAt c c.seed[d4][i]) &&& (0x1F &&& ~~~fieldMask c i) =
        BitVec.ofNat 8 (canonAt c seed[d4][i]) &&& (0x1F &&& ~~~fieldMask c i)) →
    encodeFields { c with seed := seed } l = encodeFields c l

/-! ### DECODE -/

/-- 46_commands.md R256, with R253 and R254: a completion of DECODE whose checksum and code type pass writes the
record, the key and the check values, reports success, and changes nothing else. A completion with an error writes no
register. -/
def Obligations.DecodeWritesTheRecord : Prop :=
  (∀ (r : BitVec 30) (s : State) (code : Idx → Byte) (raw : Idx → Nat), s.turn = some .engine →
    code = (codeOf s.latch).char → raw = inverseShift s.cfg code →
    (fieldIdx.map raw).sum = 16 * raw 7 + raw 8 →
    raw s.cfg.ctCheckIndex &&& s.cfg.ctCheckMask.toNat ∈ s.cfg.ctKnown →
    ∃ t, exec (.decode r) s = .next t ∧
      (lane t.dSerial 0).toNat = raw 0 ∧ (lane t.dSerial 1).toNat = raw 6 ∧ (lane t.dSerial 2).toNat = raw 12 ∧
      (lane t.dSerial 3).toNat = raw 18 ∧
      (lane t.dFields 0).toNat = raw 1 &&& s.cfg.hmMask.toNat ∧ (lane t.dFields 1).toNat = raw 2 % 4 ∧
      (lane t.dFields 2).toNat = raw 3 % 4 ∧ (lane t.dFields 3).toNat = raw 15 % 4 ∧
      (lane t.dMaterial 0).toNat = raw 5 ∧ (lane t.dMaterial 1).toNat = raw 10 ∧
      (lane t.dMaterial 2).toNat = raw 11 ∧ (lane t.dMaterial 3).toNat = raw 16 ∧
      t.dVersion.ver.toNat = raw 13 % 4 ∧ t.dVersion.key.toNat = positionOf s.cfg (code 17) ∧
      t.dCheck.checksum1.toNat = positionOf s.cfg (code 7) ∧ t.dCheck.checksum2.toNat = positionOf s.cfg (code 8) ∧
      t.dCheck.sum.toNat = (fieldIdx.map raw).sum ∧
      t = { s with
        dSerial := t.dSerial, dFields := t.dFields, dMaterial := t.dMaterial, dVersion := t.dVersion
        dCheck := t.dCheck, status := statusOk s.status }) ∧
  ∀ (r : BitVec 30) (s t : State), s.turn = some .engine → exec (.decode r) s = .next t → t.status.err = true →
    t = { s with status := t.status }

/-- 60_exceptions.md R274: the errors of DECODE, CHECKSUM_MISMATCH (5) before INVALID_CODE_TYPE (6), as
43_checksum.md R162 and 46_commands.md R255 give them. -/
def Obligations.DecodeErrorsInOrder : Prop :=
  ∀ (r : BitVec 30) (s : State) (raw : Idx → Nat), s.turn = some .engine →
    raw = inverseShift s.cfg (codeOf s.latch).char →
    ((fieldIdx.map raw).sum ≠ 16 * raw 7 + raw 8 →
      exec (.decode r) s = .next { s with status := statusErr s.status 5 }) ∧
    ((fieldIdx.map raw).sum = 16 * raw 7 + raw 8 →
      raw s.cfg.ctCheckIndex &&& s.cfg.ctCheckMask.toNat ∉ s.cfg.ctKnown →
      exec (.decode r) s = .next { s with status := statusErr s.status 6 })

/-- 40_alphabet.md R105: a byte that is no canonical character is treated as position 31 and raises no error of its
own: DECODE answers what it answers with the last canonical character in its place, and its only errors are
CHECKSUM_MISMATCH and INVALID_CODE_TYPE. -/
def Obligations.UnknownBytesDecodeAsPosition31 : Prop :=
  (∀ (c : Cfg) (code : Idx → Byte), c.AlphabetOk →
    decodeCode c code = decodeCode c fun i => if code i ∈ c.canonical then code i else sym c 31) ∧
  ∀ (c : Cfg) (code : Idx → Byte) (e : ErrCode), decodeCode c code = .error e →
    e = .checksumMismatch ∨ e = .invalidCodeType

/-- 42_embed.md R142: every code ENCODE writes has the separator at 4, 9 and 14, and DECODE does not read those
indices. -/
def Obligations.SeparatorsAreWrittenAndNotRead : Prop :=
  (∀ (c : Cfg) (l : Latch) (r : EncodeResult), encodeFields c l = .ok r →
    r.chars 4 = SEP ∧ r.chars 9 = SEP ∧ r.chars 14 = SEP) ∧
  ∀ (c : Cfg) (code code' : Idx → Byte),
    (∀ i : Idx, i ≠ 4 → i ≠ 9 → i ≠ 14 → code i = code' i) → decodeCode c code = decodeCode c code'

/-- 41_seed.md R122 and 44_shift.md R190: DECODE reads the shift base from `code[17]`; it reads no seed, normalizer,
code-type or hardware-model table, and it never raises SHIFT_BASE_OVERFLOW. -/
def Obligations.DecodeRecoversTheShiftBaseWithoutTheEncodeTables : Prop :=
  (∀ (c : Cfg) (code : Idx → Byte), inverseShift c code 17 = positionOf c (code 17)) ∧
  (∀ (c : Cfg) (code : Idx → Byte) (seed : Vector (Vector Nat 19) 10) (sn : Vector (Vector Byte 10) 4)
    (snMod : Vector Byte 10) (ctTable : Vector Byte 4) (hmTable : List Byte),
    decodeCode { c with seed := seed, sn := sn, snMod := snMod, ctTable := ctTable, hmTable := hmTable } code =
      decodeCode c code) ∧
  ∀ (c : Cfg) (code : Idx → Byte), decodeCode c code ≠ .error .shiftBaseOverflow

/-! ### ENCODE and DECODE together -/

/-- The latched values fit their field masks (42_embed.md R144); the serial digits and the ids are checked by ENCODE. -/
abbrev WithinMasks (c : Cfg) (l : Latch) : Prop :=
  (lane l.fields 0).toNat ≤ c.hmMask.toNat ∧ (lane l.fields 1).toNat ≤ 3 ∧ (lane l.fields 2).toNat ≤ 3 ∧
  (lane l.material 0).toNat ≤ 31 ∧ (lane l.material 1).toNat ≤ 31 ∧ (lane l.material 2).toNat ≤ 31 ∧
  (lane l.material 3).toNat ≤ 31 ∧ l.version.toNat ≤ 3

/-- The round trip of 46_commands.md ("Round trip (derived)"), under its conditions: when ENCODE succeeds on values
within their masks with a compose sum of at most 255, and the validation reads the code type itself, DECODE of the code
it wrote succeeds and returns what was encoded, with the shift base as the key. -/
def Obligations.DecodeReturnsWhatEncodeWrote : Prop :=
  ∀ (r q : BitVec 30) (s t u : State), s.cfg.WF → s.cfg.ctCheckIndex = 15 → s.cfg.ctCheckMask = 0x03 →
    s.turn = some .engine → exec (.encode r) s = .next t → t.status.err = false → WithinMasks s.cfg s.latch →
    t.eInfo.sum.toNat ≤ 255 → u.turn = some .engine → u.cfg = s.cfg → codeOf u.latch = t.code →
    ∃ v, exec (.decode q) u = .next v ∧ v.status = statusOk u.status ∧ v.dSerial = s.latch.serial ∧
      v.dFields = s.latch.fields ∧ v.dMaterial = s.latch.material ∧ v.dVersion.ver = s.latch.version ∧
      v.dVersion.key = t.eInfo.shiftBase ∧ v.dCheck.sum = t.eInfo.sum

/-- A corner case 43_checksum.md derives: a code ENCODE wrote from a compose sum of 256 or more never verifies. -/
def Obligations.CodesWithLargeSumsNeverVerify : Prop :=
  ∀ (r q : BitVec 30) (s t u : State), s.cfg.WF → s.turn = some .engine → exec (.encode r) s = .next t →
    t.status.err = false → 256 ≤ t.eInfo.sum.toNat → u.turn = some .engine → u.cfg = s.cfg →
    codeOf u.latch = t.code → exec (.decode q) u = .next { u with status := statusErr u.status 5 }

/-- What 43_checksum.md derives of the checksum ("What verify detects"): changing one character at a checksum index of
a code that verifies, to a character of another position, is CHECKSUM_MISMATCH; one of the same position is not
noticed. -/
def Obligations.OneChangedCharacterIsDetected : Prop :=
  ∀ (c : Cfg) (code code' : Idx → Byte) (i : Idx), i ∈ fieldIdx → (∀ j : Idx, j ≠ i → code' j = code j) →
    (positionOf c (code' i) ≠ positionOf c (code i) → decodeCode c code ≠ .error .checksumMismatch →
      decodeCode c code' = .error .checksumMismatch) ∧
    (positionOf c (code' i) = positionOf c (code i) → decodeCode c code' = decodeCode c code)

/-! ### Errors, the latch, hazards and reset -/

/-- 60_exceptions.md R272: a command that completes with an error writes no register but STATUS; every byte of the
window outside STATUS reads as before. -/
def Obligations.ErrorsWriteNoOutput : Prop :=
  ∀ (i : Instr) (s t : State), s.turn = some .engine → i.op ≠ 0 → exec i s = .next t → t.status.err = true →
    t = { s with status := statusErr s.status t.status.errcode } ∧
    ∀ a : Offset, a &&& 0xFC ≠ Reg.status.offset → windowByte a t = windowByte a s

/-- 60_exceptions.md R275: from the acceptance of a command to its completion with an error, nothing changes but STATUS
and the latch. -/
def Obligations.ErrorsArePrecise : Prop :=
  ∀ (i : Instr) (s a u : State) (rest : List Turn), s.turn = some .host → s.status.busy = false → i.op ≠ 0 →
    exec i s = .next a → exec i { a with schedule := .engine :: rest } = .next u → u.status.err = true →
    u = { s with status := u.status, latch := u.latch, schedule := .engine :: rest }

/-- 70_reset_and_hazards.md R307, with 10_state.md R43: a host write to an input register while BUSY = 1 does not
affect the command in flight; a CODE write made meanwhile is overwritten by an ENCODE that succeeds and stays if the
ENCODE fails, which the spec derives ("because the completion step is later"). -/
def Obligations.InputWritesWhileBusyDoNotAffectTheCommand : Prop :=
  ∀ (i : Instr) (r : Reg) (v : Word) (s : State), r ∈ rwRegisters → s.turn = some .engine → s.status.busy = true →
    i.op ≠ 0 → i.op = s.latch.op →
    ∃ t t', exec i s = .next t ∧ busWrite r.offset v s = .next (writeReg r v s) ∧
      exec i (writeReg r v s) = .next t' ∧ t'.status = t.status ∧ SameDecodeOutputs t t' ∧ t'.eInfo = t.eInfo ∧
      t'.latch = t.latch ∧
      (i.op = 1 → t.status.err = false → t'.code = t.code) ∧
      (t.status.err = true → t'.code = (writeReg r v s).code) ∧ SameInputs (writeReg r v s) t'

/-- The latch "is unspecified and never read, since BUSY = 0" after reset (70_reset_and_hazards.md; the value itself is
the model's, log 6): while no command is in flight, a step does the same whatever the latch holds. -/
def Obligations.LatchIsNotReadWhileIdle : Prop :=
  ∀ (s : State) (l : Latch), s.status.busy = false →
    (∀ f : Fault, step s = .fault f → step { s with latch := l } = .fault f) ∧
    ∀ t : State, step s = .next t →
      step { s with latch := l } = .next t ∨ (t.latch = s.latch ∧ step { s with latch := l } = .next { t with latch := l })

/-- 70_reset_and_hazards.md R300, R302: the state after reset, whose latch is unspecified (log 6), and a reset at any
time, also while BUSY = 1, which abandons the command in flight and leads to the same registers. -/
def Obligations.ResetClearsEveryRegister : Prop :=
  (∀ s : State, s.nextTurn = .reset → ∃ t, step s = .next t) ∧
  ∀ t : State, ((∃ c : Cfg, t = State.resetWith c) ∨ ∃ s : State, s.nextTurn = .reset ∧ step s = .next t) →
    t.status = { busy := false, done := false, err := false, ovr := false, errcode := 0 } ∧ t.status.word = 0 ∧
    t.serial = 0 ∧ t.fields = 0 ∧ t.material = 0 ∧ t.version = 0 ∧ t.key = 0 ∧ (∀ i : Idx, t.code.char i = 0) ∧
    t.dSerial = 0 ∧ t.dFields = 0 ∧ t.dMaterial = 0 ∧ t.dVersion = { ver := 0, key := 0 } ∧
    t.dCheck = { checksum1 := 0, checksum2 := 0, sum := 0 } ∧ t.eInfo = { shiftBase := 0, sum := 0 } ∧
    ∀ off : Offset, busRead off t = 0

/-- What 70_reset_and_hazards.md R304 rests on: the outputs change only at a completion or a reset, except that a host
write to a CODE register changes CODE. So a read before the completion returns the values from before the command. -/
def Obligations.OutputsChangeOnlyAtCompletionOrReset : Prop :=
  ∀ s t : State, step s = .next t → s.nextTurn ≠ .engine → s.nextTurn ≠ .reset →
    SameDecodeOutputs s t ∧ t.eInfo = s.eInfo ∧
    (t.code ≠ s.code → ∃ r ∈ [Reg.code0, .code1, .code2, .code3, .code4], ∃ v : Word, HostWrites s r v)

/-- What 70_reset_and_hazards.md R306 rests on: a `wait` loop ends once the engine's completion step has happened,
however many times the host polls before it. (The schedule is the model's own field, log 3.) -/
def Obligations.WaitEndsAfterTheCompletion : Prop :=
  ∀ (n : Nat) (s : State) (p : List HostOp) (rest : List Turn), s.status.busy = true → s.latch.op ≠ 0 →
    s.program = .wait :: p → s.schedule = List.replicate n .host ++ .engine :: .host :: rest →
    (∃ u, Host.Core.run Sys2Proof.core n s = .next u ∧ u.program = .wait :: p ∧ u.status.busy = true) ∧
    ∃ t, Host.Core.run Sys2Proof.core (n + 2) s = .next t ∧ t.program = p ∧ t.status.busy = false ∧
      t.status.done = true ∧ t.schedule = rest

/-- Weak fairness of the engine, on which 70_reset_and_hazards.md R306 rests a claim that a wait ends: in every run, "an
enabled completion step eventually happens", unless a reset abandons the command or a bus fault ends the run first.
(Where the schedule ends is the model's own choice, log 3.) -/
def Obligations.EveryRunIsWeaklyFairToTheEngine : Prop := ∀ s : State, WeaklyFair s

/-- What that fairness gives (93_implementation_defined.md U11: "A `wait` that is never followed by a completion step is
stuck, and the model's fairness excludes that"): from every state of the invariant on the latch and under every
schedule, resets included, a `wait` loop ends, and it ends with BUSY = 0. The bound is the length of the schedule, which
is arbitrary (log 17); the spec bounds nothing. -/
def Obligations.EveryWaitEnds : Prop :=
  ∀ (s : State) (p : List HostOp), (s.status.busy = true → s.latch.op ≠ 0) → s.program = .wait :: p →
    ∃ k ≤ s.schedule.length + 2, ∃ t, Host.Core.run Sys2Proof.core k s = .next t ∧ t.program = p ∧
      t.status.busy = false

/-- 70_reset_and_hazards.md R308, a law the spec derives ("clears the bit at once"): a W1C write of DONE or ERR clears the
bit, also while BUSY = 1, and the later completion sets DONE again, and ERR on an error; after a completion it clears the
report, ERRCODE included. -/
def Obligations.StatusClearsAtOnceAndIsSetAgain : Prop :=
  (∀ (s : State) (v : Word), HostWrites s .status v → ∃ t, step s = .next t ∧ t.status.busy = s.status.busy ∧
    t.status.done = (s.status.done && !v.getLsbD 1) ∧ t.status.err = (s.status.err && !v.getLsbD 2) ∧
    (v.getLsbD 2 = true → t.status.errcode = 0)) ∧
  ∀ s : State, s.nextTurn = .engine → s.status.busy = true → s.latch.op ≠ 0 → ∃ t, step s = .next t ∧
    t.status.done = true ∧ (s.latch.op = 3 → t.status.err = true)

/-- What 30_encoding.md R85 says of `ldcode`: its five writes leave the 19 characters in the code registers, in print
order, and change nothing else of the block. -/
def Obligations.LdcodeLoadsTheCode : Prop :=
  ∀ (s : State) (ch : Vector Byte 19) (p : List HostOp) (rest : List Turn),
    s.program = (HostLine.ldcode ch).expand ++ p → s.schedule = List.replicate 5 .host ++ rest →
    ∃ t, Host.Core.run Sys2Proof.core 5 s = .next t ∧ (∀ i : Idx, t.code.char i = ch[i]) ∧
      t = { s with code := t.code, program := p, schedule := rest }

/-- What 30_encoding.md §3 says of the host notation: the bus transactions of every line, and that `wait` reads STATUS
until bit 0 of the value is 0. (The host's program and what it read are the model's own fields, logs 4 and 10.) -/
def Obligations.HostNotationExpandsToAccesses : Prop :=
  (∀ r : Reg, (RegOperand.reg r).toOffset = r.offset) ∧ (∀ off : Offset, (RegOperand.offset off).toOffset = off) ∧
  (∀ (o : RegOperand) (v : Word), (HostLine.wr o v).expand = [.access (.write o.toOffset 32 v)] ∧
    (HostLine.rd o).expand = [.access (.read o.toOffset 32)] ∧ (HostLine.rdExpect o v).expand = [.expect o.toOffset v]) ∧
  HostLine.nop.expand = [.access (.write 0x00 32 0x00000000)] ∧
  HostLine.encode.expand = [.access (.write 0x00 32 0x00000001), .wait] ∧
  HostLine.decode.expand = [.access (.write 0x00 32 0x00000002), .wait] ∧ HostLine.wait.expand = [.wait] ∧
  HostLine.clr.expand = [.access (.write 0x04 32 0x0000000E)] ∧
  (∀ a b c d : Byte, (HostLine.ldserial a b c d).expand = [.access (.write 0x08 32 (d ++ c ++ b ++ a))] ∧
    (HostLine.ldfields a b c d).expand = [.access (.write 0x0C 32 (d ++ c ++ b ++ a))] ∧
    (HostLine.ldmat a b c d).expand = [.access (.write 0x10 32 (d ++ c ++ b ++ a))]) ∧
  (∀ ch : Vector Byte 19, (HostLine.ldcode ch).expand =
    [.access (.write 0x20 32 (ch[3] ++ ch[2] ++ ch[1] ++ ch[0])), .access (.write 0x24 32 (ch[7] ++ ch[6] ++ ch[5] ++ ch[4])),
     .access (.write 0x28 32 (ch[11] ++ ch[10] ++ ch[9] ++ ch[8])),
     .access (.write 0x2C 32 (ch[15] ++ ch[14] ++ ch[13] ++ ch[12])),
     .access (.write 0x30 32 (0x00#8 ++ ch[18] ++ ch[17] ++ ch[16]))]) ∧
  ∀ (s : State) (p : List HostOp), s.nextTurn = .host → s.program = .wait :: p → step s = .next { s with
    program := if s.status.busy then .wait :: p else p
    observed := { off := 0x04, value := s.status.word, expected := none } :: s.observed
    schedule := s.schedule.tail }

/-! ### The invariant -/

/-- The invariant holds at reset, for every configuration. -/
def Obligations.InvariantHoldsAtReset : Prop :=
  (∀ c : Cfg, MachineInvariant (State.resetWith c)) ∧ MachineInvariant State.reset

/-- Every step keeps the invariant: STATUS consistent, a command in flight that is none of NOP, and output registers in
the ranges of 10_state.md's register map, from every state that meets it. -/
def Obligations.StepKeepsTheInvariant : Prop :=
  ∀ s t : State, MachineInvariant s → step s = .next t → MachineInvariant t
end

