-- ==== Sys2Proof/Laws/State.lean ====
section
/-! SUPPORT. What each update of the state does to each field, one lemma per field, so that no proof unfolds a record
update. -/

namespace Sys2Proof.Machine

/-! ### completeOk -/

@[simp] theorem completeOk_cfg (s : State) : (completeOk s).cfg = s.cfg := rfl
@[simp] theorem completeOk_status (s : State) : (completeOk s).status = { busy := false, done := true, err := false, ovr := s.status.ovr, errcode := 0 } := rfl
@[simp] theorem completeOk_serial (s : State) : (completeOk s).serial = s.serial := rfl
@[simp] theorem completeOk_fields (s : State) : (completeOk s).fields = s.fields := rfl
@[simp] theorem completeOk_material (s : State) : (completeOk s).material = s.material := rfl
@[simp] theorem completeOk_version (s : State) : (completeOk s).version = s.version := rfl
@[simp] theorem completeOk_key (s : State) : (completeOk s).key = s.key := rfl
@[simp] theorem completeOk_code (s : State) : (completeOk s).code = s.code := rfl
@[simp] theorem completeOk_dSerial (s : State) : (completeOk s).dSerial = s.dSerial := rfl
@[simp] theorem completeOk_dFields (s : State) : (completeOk s).dFields = s.dFields := rfl
@[simp] theorem completeOk_dMaterial (s : State) : (completeOk s).dMaterial = s.dMaterial := rfl
@[simp] theorem completeOk_dVersion (s : State) : (completeOk s).dVersion = s.dVersion := rfl
@[simp] theorem completeOk_dCheck (s : State) : (completeOk s).dCheck = s.dCheck := rfl
@[simp] theorem completeOk_eInfo (s : State) : (completeOk s).eInfo = s.eInfo := rfl
@[simp] theorem completeOk_latch (s : State) : (completeOk s).latch = s.latch := rfl
@[simp] theorem completeOk_program (s : State) : (completeOk s).program = s.program := rfl
@[simp] theorem completeOk_observed (s : State) : (completeOk s).observed = s.observed := rfl
@[simp] theorem completeOk_schedule (s : State) : (completeOk s).schedule = s.schedule := rfl
@[simp] theorem completeOk_resets (s : State) : (completeOk s).resets = s.resets := rfl

@[simp] theorem completeOk_turn (s : State) : (completeOk s).turn = s.turn := rfl

/-! ### completeErr -/

@[simp] theorem completeErr_cfg (e : ErrCode) (s : State) : (completeErr e s).cfg = s.cfg := rfl
@[simp] theorem completeErr_status (e : ErrCode) (s : State) : (completeErr e s).status = { busy := false, done := true, err := true, ovr := s.status.ovr, errcode := e.code } := rfl
@[simp] theorem completeErr_serial (e : ErrCode) (s : State) : (completeErr e s).serial = s.serial := rfl
@[simp] theorem completeErr_fields (e : ErrCode) (s : State) : (completeErr e s).fields = s.fields := rfl
@[simp] theorem completeErr_material (e : ErrCode) (s : State) : (completeErr e s).material = s.material := rfl
@[simp] theorem completeErr_version (e : ErrCode) (s : State) : (completeErr e s).version = s.version := rfl
@[simp] theorem completeErr_key (e : ErrCode) (s : State) : (completeErr e s).key = s.key := rfl
@[simp] theorem completeErr_code (e : ErrCode) (s : State) : (completeErr e s).code = s.code := rfl
@[simp] theorem completeErr_dSerial (e : ErrCode) (s : State) : (completeErr e s).dSerial = s.dSerial := rfl
@[simp] theorem completeErr_dFields (e : ErrCode) (s : State) : (completeErr e s).dFields = s.dFields := rfl
@[simp] theorem completeErr_dMaterial (e : ErrCode) (s : State) : (completeErr e s).dMaterial = s.dMaterial := rfl
@[simp] theorem completeErr_dVersion (e : ErrCode) (s : State) : (completeErr e s).dVersion = s.dVersion := rfl
@[simp] theorem completeErr_dCheck (e : ErrCode) (s : State) : (completeErr e s).dCheck = s.dCheck := rfl
@[simp] theorem completeErr_eInfo (e : ErrCode) (s : State) : (completeErr e s).eInfo = s.eInfo := rfl
@[simp] theorem completeErr_latch (e : ErrCode) (s : State) : (completeErr e s).latch = s.latch := rfl
@[simp] theorem completeErr_program (e : ErrCode) (s : State) : (completeErr e s).program = s.program := rfl
@[simp] theorem completeErr_observed (e : ErrCode) (s : State) : (completeErr e s).observed = s.observed := rfl
@[simp] theorem completeErr_schedule (e : ErrCode) (s : State) : (completeErr e s).schedule = s.schedule := rfl
@[simp] theorem completeErr_resets (e : ErrCode) (s : State) : (completeErr e s).resets = s.resets := rfl

@[simp] theorem completeErr_turn (e : ErrCode) (s : State) : (completeErr e s).turn = s.turn := rfl

/-! ### accept -/

@[simp] theorem accept_cfg (op : BitVec 2) (s : State) : (accept op s).cfg = s.cfg := rfl
@[simp] theorem accept_status (op : BitVec 2) (s : State) : (accept op s).status = { busy := true, done := false, err := false, ovr := s.status.ovr, errcode := 0 } := rfl
@[simp] theorem accept_serial (op : BitVec 2) (s : State) : (accept op s).serial = s.serial := rfl
@[simp] theorem accept_fields (op : BitVec 2) (s : State) : (accept op s).fields = s.fields := rfl
@[simp] theorem accept_material (op : BitVec 2) (s : State) : (accept op s).material = s.material := rfl
@[simp] theorem accept_version (op : BitVec 2) (s : State) : (accept op s).version = s.version := rfl
@[simp] theorem accept_key (op : BitVec 2) (s : State) : (accept op s).key = s.key := rfl
@[simp] theorem accept_code (op : BitVec 2) (s : State) : (accept op s).code = s.code := rfl
@[simp] theorem accept_dSerial (op : BitVec 2) (s : State) : (accept op s).dSerial = s.dSerial := rfl
@[simp] theorem accept_dFields (op : BitVec 2) (s : State) : (accept op s).dFields = s.dFields := rfl
@[simp] theorem accept_dMaterial (op : BitVec 2) (s : State) : (accept op s).dMaterial = s.dMaterial := rfl
@[simp] theorem accept_dVersion (op : BitVec 2) (s : State) : (accept op s).dVersion = s.dVersion := rfl
@[simp] theorem accept_dCheck (op : BitVec 2) (s : State) : (accept op s).dCheck = s.dCheck := rfl
@[simp] theorem accept_eInfo (op : BitVec 2) (s : State) : (accept op s).eInfo = s.eInfo := rfl
@[simp] theorem accept_latch (op : BitVec 2) (s : State) : (accept op s).latch = s.latchOf op := rfl
@[simp] theorem accept_program (op : BitVec 2) (s : State) : (accept op s).program = s.program := rfl
@[simp] theorem accept_observed (op : BitVec 2) (s : State) : (accept op s).observed = s.observed := rfl
@[simp] theorem accept_schedule (op : BitVec 2) (s : State) : (accept op s).schedule = s.schedule := rfl
@[simp] theorem accept_resets (op : BitVec 2) (s : State) : (accept op s).resets = s.resets := rfl

@[simp] theorem accept_turn (op : BitVec 2) (s : State) : (accept op s).turn = s.turn := rfl

/-! ### drop -/

@[simp] theorem drop_cfg (s : State) : (drop s).cfg = s.cfg := rfl
@[simp] theorem drop_status (s : State) : (drop s).status = { s.status with ovr := true } := rfl
@[simp] theorem drop_serial (s : State) : (drop s).serial = s.serial := rfl
@[simp] theorem drop_fields (s : State) : (drop s).fields = s.fields := rfl
@[simp] theorem drop_material (s : State) : (drop s).material = s.material := rfl
@[simp] theorem drop_version (s : State) : (drop s).version = s.version := rfl
@[simp] theorem drop_key (s : State) : (drop s).key = s.key := rfl
@[simp] theorem drop_code (s : State) : (drop s).code = s.code := rfl
@[simp] theorem drop_dSerial (s : State) : (drop s).dSerial = s.dSerial := rfl
@[simp] theorem drop_dFields (s : State) : (drop s).dFields = s.dFields := rfl
@[simp] theorem drop_dMaterial (s : State) : (drop s).dMaterial = s.dMaterial := rfl
@[simp] theorem drop_dVersion (s : State) : (drop s).dVersion = s.dVersion := rfl
@[simp] theorem drop_dCheck (s : State) : (drop s).dCheck = s.dCheck := rfl
@[simp] theorem drop_eInfo (s : State) : (drop s).eInfo = s.eInfo := rfl
@[simp] theorem drop_latch (s : State) : (drop s).latch = s.latch := rfl
@[simp] theorem drop_program (s : State) : (drop s).program = s.program := rfl
@[simp] theorem drop_observed (s : State) : (drop s).observed = s.observed := rfl
@[simp] theorem drop_schedule (s : State) : (drop s).schedule = s.schedule := rfl
@[simp] theorem drop_resets (s : State) : (drop s).resets = s.resets := rfl

@[simp] theorem drop_turn (s : State) : (drop s).turn = s.turn := rfl

/-! ### writeEncodeOutputs -/

@[simp] theorem writeEncodeOutputs_cfg (r : EncodeResult) (s : State) : (writeEncodeOutputs r s).cfg = s.cfg := rfl
@[simp] theorem writeEncodeOutputs_status (r : EncodeResult) (s : State) : (writeEncodeOutputs r s).status = s.status := rfl
@[simp] theorem writeEncodeOutputs_serial (r : EncodeResult) (s : State) : (writeEncodeOutputs r s).serial = s.serial := rfl
@[simp] theorem writeEncodeOutputs_fields (r : EncodeResult) (s : State) : (writeEncodeOutputs r s).fields = s.fields := rfl
@[simp] theorem writeEncodeOutputs_material (r : EncodeResult) (s : State) : (writeEncodeOutputs r s).material = s.material := rfl
@[simp] theorem writeEncodeOutputs_version (r : EncodeResult) (s : State) : (writeEncodeOutputs r s).version = s.version := rfl
@[simp] theorem writeEncodeOutputs_key (r : EncodeResult) (s : State) : (writeEncodeOutputs r s).key = s.key := rfl
@[simp] theorem writeEncodeOutputs_code (r : EncodeResult) (s : State) : (writeEncodeOutputs r s).code = CodeRegs.ofChars r.chars := rfl
@[simp] theorem writeEncodeOutputs_dSerial (r : EncodeResult) (s : State) : (writeEncodeOutputs r s).dSerial = s.dSerial := rfl
@[simp] theorem writeEncodeOutputs_dFields (r : EncodeResult) (s : State) : (writeEncodeOutputs r s).dFields = s.dFields := rfl
@[simp] theorem writeEncodeOutputs_dMaterial (r : EncodeResult) (s : State) : (writeEncodeOutputs r s).dMaterial = s.dMaterial := rfl
@[simp] theorem writeEncodeOutputs_dVersion (r : EncodeResult) (s : State) : (writeEncodeOutputs r s).dVersion = s.dVersion := rfl
@[simp] theorem writeEncodeOutputs_dCheck (r : EncodeResult) (s : State) : (writeEncodeOutputs r s).dCheck = s.dCheck := rfl
@[simp] theorem writeEncodeOutputs_eInfo (r : EncodeResult) (s : State) : (writeEncodeOutputs r s).eInfo = { shiftBase := BitVec.ofNat 8 r.base, sum := BitVec.ofNat 16 r.sum } := rfl
@[simp] theorem writeEncodeOutputs_latch (r : EncodeResult) (s : State) : (writeEncodeOutputs r s).latch = s.latch := rfl
@[simp] theorem writeEncodeOutputs_program (r : EncodeResult) (s : State) : (writeEncodeOutputs r s).program = s.program := rfl
@[simp] theorem writeEncodeOutputs_observed (r : EncodeResult) (s : State) : (writeEncodeOutputs r s).observed = s.observed := rfl
@[simp] theorem writeEncodeOutputs_schedule (r : EncodeResult) (s : State) : (writeEncodeOutputs r s).schedule = s.schedule := rfl
@[simp] theorem writeEncodeOutputs_resets (r : EncodeResult) (s : State) : (writeEncodeOutputs r s).resets = s.resets := rfl

@[simp] theorem writeEncodeOutputs_turn (r : EncodeResult) (s : State) : (writeEncodeOutputs r s).turn = s.turn := rfl

/-! ### writeDecodeOutputs -/

@[simp] theorem writeDecodeOutputs_cfg (r : DecodeResult) (s : State) : (writeDecodeOutputs r s).cfg = s.cfg := rfl
@[simp] theorem writeDecodeOutputs_status (r : DecodeResult) (s : State) : (writeDecodeOutputs r s).status = s.status := rfl
@[simp] theorem writeDecodeOutputs_serial (r : DecodeResult) (s : State) : (writeDecodeOutputs r s).serial = s.serial := rfl
@[simp] theorem writeDecodeOutputs_fields (r : DecodeResult) (s : State) : (writeDecodeOutputs r s).fields = s.fields := rfl
@[simp] theorem writeDecodeOutputs_material (r : DecodeResult) (s : State) : (writeDecodeOutputs r s).material = s.material := rfl
@[simp] theorem writeDecodeOutputs_version (r : DecodeResult) (s : State) : (writeDecodeOutputs r s).version = s.version := rfl
@[simp] theorem writeDecodeOutputs_key (r : DecodeResult) (s : State) : (writeDecodeOutputs r s).key = s.key := rfl
@[simp] theorem writeDecodeOutputs_code (r : DecodeResult) (s : State) : (writeDecodeOutputs r s).code = s.code := rfl
@[simp] theorem writeDecodeOutputs_dSerial (r : DecodeResult) (s : State) : (writeDecodeOutputs r s).dSerial = word4 (rawLane r.raw 18) (rawLane r.raw 12) (rawLane r.raw 6) (rawLane r.raw 0) := rfl
@[simp] theorem writeDecodeOutputs_dFields (r : DecodeResult) (s : State) : (writeDecodeOutputs r s).dFields = word4 (maskedLane s.cfg r.raw 15) (maskedLane s.cfg r.raw 3) (maskedLane s.cfg r.raw 2)
      (maskedLane s.cfg r.raw 1) := rfl
@[simp] theorem writeDecodeOutputs_dMaterial (r : DecodeResult) (s : State) : (writeDecodeOutputs r s).dMaterial = word4 (rawLane r.raw 16) (rawLane r.raw 11) (rawLane r.raw 10) (rawLane r.raw 5) := rfl
@[simp] theorem writeDecodeOutputs_dVersion (r : DecodeResult) (s : State) : (writeDecodeOutputs r s).dVersion = { ver := maskedLane s.cfg r.raw 13, key := rawLane r.raw 17 } := rfl
@[simp] theorem writeDecodeOutputs_dCheck (r : DecodeResult) (s : State) : (writeDecodeOutputs r s).dCheck = { checksum1 := rawLane r.raw 7, checksum2 := rawLane r.raw 8, sum := BitVec.ofNat 16 r.sum } := rfl
@[simp] theorem writeDecodeOutputs_eInfo (r : DecodeResult) (s : State) : (writeDecodeOutputs r s).eInfo = s.eInfo := rfl
@[simp] theorem writeDecodeOutputs_latch (r : DecodeResult) (s : State) : (writeDecodeOutputs r s).latch = s.latch := rfl
@[simp] theorem writeDecodeOutputs_program (r : DecodeResult) (s : State) : (writeDecodeOutputs r s).program = s.program := rfl
@[simp] theorem writeDecodeOutputs_observed (r : DecodeResult) (s : State) : (writeDecodeOutputs r s).observed = s.observed := rfl
@[simp] theorem writeDecodeOutputs_schedule (r : DecodeResult) (s : State) : (writeDecodeOutputs r s).schedule = s.schedule := rfl
@[simp] theorem writeDecodeOutputs_resets (r : DecodeResult) (s : State) : (writeDecodeOutputs r s).resets = s.resets := rfl

@[simp] theorem writeDecodeOutputs_turn (r : DecodeResult) (s : State) : (writeDecodeOutputs r s).turn = s.turn := rfl

/-! ### observe -/

@[simp] theorem observe_cfg (off : Offset) (x : Option Word) (s : State) : (observe off x s).cfg = s.cfg := rfl
@[simp] theorem observe_status (off : Offset) (x : Option Word) (s : State) : (observe off x s).status = s.status := rfl
@[simp] theorem observe_serial (off : Offset) (x : Option Word) (s : State) : (observe off x s).serial = s.serial := rfl
@[simp] theorem observe_fields (off : Offset) (x : Option Word) (s : State) : (observe off x s).fields = s.fields := rfl
@[simp] theorem observe_material (off : Offset) (x : Option Word) (s : State) : (observe off x s).material = s.material := rfl
@[simp] theorem observe_version (off : Offset) (x : Option Word) (s : State) : (observe off x s).version = s.version := rfl
@[simp] theorem observe_key (off : Offset) (x : Option Word) (s : State) : (observe off x s).key = s.key := rfl
@[simp] theorem observe_code (off : Offset) (x : Option Word) (s : State) : (observe off x s).code = s.code := rfl
@[simp] theorem observe_dSerial (off : Offset) (x : Option Word) (s : State) : (observe off x s).dSerial = s.dSerial := rfl
@[simp] theorem observe_dFields (off : Offset) (x : Option Word) (s : State) : (observe off x s).dFields = s.dFields := rfl
@[simp] theorem observe_dMaterial (off : Offset) (x : Option Word) (s : State) : (observe off x s).dMaterial = s.dMaterial := rfl
@[simp] theorem observe_dVersion (off : Offset) (x : Option Word) (s : State) : (observe off x s).dVersion = s.dVersion := rfl
@[simp] theorem observe_dCheck (off : Offset) (x : Option Word) (s : State) : (observe off x s).dCheck = s.dCheck := rfl
@[simp] theorem observe_eInfo (off : Offset) (x : Option Word) (s : State) : (observe off x s).eInfo = s.eInfo := rfl
@[simp] theorem observe_latch (off : Offset) (x : Option Word) (s : State) : (observe off x s).latch = s.latch := rfl
@[simp] theorem observe_program (off : Offset) (x : Option Word) (s : State) : (observe off x s).program = s.program := rfl
@[simp] theorem observe_observed (off : Offset) (x : Option Word) (s : State) : (observe off x s).observed = { off := off, value := busRead off s, expected := x } :: s.observed := rfl
@[simp] theorem observe_schedule (off : Offset) (x : Option Word) (s : State) : (observe off x s).schedule = s.schedule := rfl
@[simp] theorem observe_resets (off : Offset) (x : Option Word) (s : State) : (observe off x s).resets = s.resets := rfl

@[simp] theorem observe_turn (off : Offset) (x : Option Word) (s : State) : (observe off x s).turn = s.turn := rfl

/-! ### State.scheduled -/

@[simp] theorem State.scheduled_cfg (s : State) : s.scheduled.cfg = s.cfg := rfl
@[simp] theorem State.scheduled_status (s : State) : s.scheduled.status = s.status := rfl
@[simp] theorem State.scheduled_serial (s : State) : s.scheduled.serial = s.serial := rfl
@[simp] theorem State.scheduled_fields (s : State) : s.scheduled.fields = s.fields := rfl
@[simp] theorem State.scheduled_material (s : State) : s.scheduled.material = s.material := rfl
@[simp] theorem State.scheduled_version (s : State) : s.scheduled.version = s.version := rfl
@[simp] theorem State.scheduled_key (s : State) : s.scheduled.key = s.key := rfl
@[simp] theorem State.scheduled_code (s : State) : s.scheduled.code = s.code := rfl
@[simp] theorem State.scheduled_dSerial (s : State) : s.scheduled.dSerial = s.dSerial := rfl
@[simp] theorem State.scheduled_dFields (s : State) : s.scheduled.dFields = s.dFields := rfl
@[simp] theorem State.scheduled_dMaterial (s : State) : s.scheduled.dMaterial = s.dMaterial := rfl
@[simp] theorem State.scheduled_dVersion (s : State) : s.scheduled.dVersion = s.dVersion := rfl
@[simp] theorem State.scheduled_dCheck (s : State) : s.scheduled.dCheck = s.dCheck := rfl
@[simp] theorem State.scheduled_eInfo (s : State) : s.scheduled.eInfo = s.eInfo := rfl
@[simp] theorem State.scheduled_latch (s : State) : s.scheduled.latch = s.latch := rfl
@[simp] theorem State.scheduled_program (s : State) : s.scheduled.program = s.program := rfl
@[simp] theorem State.scheduled_observed (s : State) : s.scheduled.observed = s.observed := rfl
@[simp] theorem State.scheduled_schedule (s : State) : s.scheduled.schedule = s.nextTurn :: s.schedule.tail := rfl
@[simp] theorem State.scheduled_resets (s : State) : s.scheduled.resets = s.resets := rfl

@[simp] theorem State.scheduled_turn (s : State) : s.scheduled.turn = some s.nextTurn := rfl
@[simp] theorem State.scheduled_nextTurn (s : State) : s.scheduled.nextTurn = s.nextTurn := rfl
@[simp] theorem State.scheduled_scheduled (s : State) : s.scheduled.scheduled = s.scheduled := rfl

/-! ### endTurn -/

@[simp] theorem endTurn_cfg (s : State) : (endTurn s).cfg = s.cfg := rfl
@[simp] theorem endTurn_status (s : State) : (endTurn s).status = s.status := rfl
@[simp] theorem endTurn_serial (s : State) : (endTurn s).serial = s.serial := rfl
@[simp] theorem endTurn_fields (s : State) : (endTurn s).fields = s.fields := rfl
@[simp] theorem endTurn_material (s : State) : (endTurn s).material = s.material := rfl
@[simp] theorem endTurn_version (s : State) : (endTurn s).version = s.version := rfl
@[simp] theorem endTurn_key (s : State) : (endTurn s).key = s.key := rfl
@[simp] theorem endTurn_code (s : State) : (endTurn s).code = s.code := rfl
@[simp] theorem endTurn_dSerial (s : State) : (endTurn s).dSerial = s.dSerial := rfl
@[simp] theorem endTurn_dFields (s : State) : (endTurn s).dFields = s.dFields := rfl
@[simp] theorem endTurn_dMaterial (s : State) : (endTurn s).dMaterial = s.dMaterial := rfl
@[simp] theorem endTurn_dVersion (s : State) : (endTurn s).dVersion = s.dVersion := rfl
@[simp] theorem endTurn_dCheck (s : State) : (endTurn s).dCheck = s.dCheck := rfl
@[simp] theorem endTurn_eInfo (s : State) : (endTurn s).eInfo = s.eInfo := rfl
@[simp] theorem endTurn_latch (s : State) : (endTurn s).latch = s.latch := rfl
@[simp] theorem endTurn_program (s : State) : (endTurn s).program = s.program := rfl
@[simp] theorem endTurn_observed (s : State) : (endTurn s).observed = s.observed := rfl
@[simp] theorem endTurn_schedule (s : State) : (endTurn s).schedule = s.schedule.tail := rfl
@[simp] theorem endTurn_resets (s : State) : (endTurn s).resets = s.resets := rfl

/-! ### retire -/

@[simp] theorem retire_cfg (s : State) : (retire s).cfg = s.cfg := rfl
@[simp] theorem retire_status (s : State) : (retire s).status = s.status := rfl
@[simp] theorem retire_serial (s : State) : (retire s).serial = s.serial := rfl
@[simp] theorem retire_fields (s : State) : (retire s).fields = s.fields := rfl
@[simp] theorem retire_material (s : State) : (retire s).material = s.material := rfl
@[simp] theorem retire_version (s : State) : (retire s).version = s.version := rfl
@[simp] theorem retire_key (s : State) : (retire s).key = s.key := rfl
@[simp] theorem retire_code (s : State) : (retire s).code = s.code := rfl
@[simp] theorem retire_dSerial (s : State) : (retire s).dSerial = s.dSerial := rfl
@[simp] theorem retire_dFields (s : State) : (retire s).dFields = s.dFields := rfl
@[simp] theorem retire_dMaterial (s : State) : (retire s).dMaterial = s.dMaterial := rfl
@[simp] theorem retire_dVersion (s : State) : (retire s).dVersion = s.dVersion := rfl
@[simp] theorem retire_dCheck (s : State) : (retire s).dCheck = s.dCheck := rfl
@[simp] theorem retire_eInfo (s : State) : (retire s).eInfo = s.eInfo := rfl
@[simp] theorem retire_latch (s : State) : (retire s).latch = s.latch := rfl
@[simp] theorem retire_program (s : State) : (retire s).program = s.program.tail := rfl
@[simp] theorem retire_observed (s : State) : (retire s).observed = s.observed := rfl
@[simp] theorem retire_schedule (s : State) : (retire s).schedule = s.schedule.tail := rfl
@[simp] theorem retire_resets (s : State) : (retire s).resets = s.resets := rfl

/-! ### resetBlock -/

@[simp] theorem resetBlock_cfg (s : State) : (resetBlock s).cfg = s.cfg := rfl
@[simp] theorem resetBlock_status (s : State) : (resetBlock s).status = Status.reset := rfl
@[simp] theorem resetBlock_serial (s : State) : (resetBlock s).serial = 0 := rfl
@[simp] theorem resetBlock_fields (s : State) : (resetBlock s).fields = 0 := rfl
@[simp] theorem resetBlock_material (s : State) : (resetBlock s).material = 0 := rfl
@[simp] theorem resetBlock_version (s : State) : (resetBlock s).version = 0 := rfl
@[simp] theorem resetBlock_key (s : State) : (resetBlock s).key = 0 := rfl
@[simp] theorem resetBlock_code (s : State) : (resetBlock s).code = { code0 := 0, code1 := 0, code2 := 0, code3 := 0, code4 := 0 } := rfl
@[simp] theorem resetBlock_dSerial (s : State) : (resetBlock s).dSerial = 0 := rfl
@[simp] theorem resetBlock_dFields (s : State) : (resetBlock s).dFields = 0 := rfl
@[simp] theorem resetBlock_dMaterial (s : State) : (resetBlock s).dMaterial = 0 := rfl
@[simp] theorem resetBlock_dVersion (s : State) : (resetBlock s).dVersion = { ver := 0, key := 0 } := rfl
@[simp] theorem resetBlock_dCheck (s : State) : (resetBlock s).dCheck = { checksum1 := 0, checksum2 := 0, sum := 0 } := rfl
@[simp] theorem resetBlock_eInfo (s : State) : (resetBlock s).eInfo = { shiftBase := 0, sum := 0 } := rfl
@[simp] theorem resetBlock_latch (s : State) : (resetBlock s).latch = Config.latchAtReset s.resets := rfl
@[simp] theorem resetBlock_program (s : State) : (resetBlock s).program = s.program := rfl
@[simp] theorem resetBlock_observed (s : State) : (resetBlock s).observed = s.observed := rfl
@[simp] theorem resetBlock_schedule (s : State) : (resetBlock s).schedule = s.schedule := rfl
@[simp] theorem resetBlock_resets (s : State) : (resetBlock s).resets = s.resets + 1 := rfl

/-! ### writeReg -/

@[simp] theorem writeReg_cfg (r : Reg) (v : Word) (s : State) : (writeReg r v s).cfg = s.cfg := by cases r <;> rfl
@[simp] theorem writeReg_dSerial (r : Reg) (v : Word) (s : State) : (writeReg r v s).dSerial = s.dSerial := by cases r <;> rfl
@[simp] theorem writeReg_dFields (r : Reg) (v : Word) (s : State) : (writeReg r v s).dFields = s.dFields := by cases r <;> rfl
@[simp] theorem writeReg_dMaterial (r : Reg) (v : Word) (s : State) : (writeReg r v s).dMaterial = s.dMaterial := by cases r <;> rfl
@[simp] theorem writeReg_dVersion (r : Reg) (v : Word) (s : State) : (writeReg r v s).dVersion = s.dVersion := by cases r <;> rfl
@[simp] theorem writeReg_dCheck (r : Reg) (v : Word) (s : State) : (writeReg r v s).dCheck = s.dCheck := by cases r <;> rfl
@[simp] theorem writeReg_eInfo (r : Reg) (v : Word) (s : State) : (writeReg r v s).eInfo = s.eInfo := by cases r <;> rfl
@[simp] theorem writeReg_latch (r : Reg) (v : Word) (s : State) : (writeReg r v s).latch = s.latch := by cases r <;> rfl
@[simp] theorem writeReg_program (r : Reg) (v : Word) (s : State) : (writeReg r v s).program = s.program := by cases r <;> rfl
@[simp] theorem writeReg_observed (r : Reg) (v : Word) (s : State) : (writeReg r v s).observed = s.observed := by cases r <;> rfl
@[simp] theorem writeReg_schedule (r : Reg) (v : Word) (s : State) : (writeReg r v s).schedule = s.schedule := by cases r <;> rfl
@[simp] theorem writeReg_resets (r : Reg) (v : Word) (s : State) : (writeReg r v s).resets = s.resets := by cases r <;> rfl
theorem writeReg_status (r : Reg) (v : Word) (s : State) :
    (writeReg r v s).status = if r = .status then s.status.writeOneToClear v else s.status := by cases r <;> rfl
theorem writeReg_serial (r : Reg) (v : Word) (s : State) :
    (writeReg r v s).serial = if r = .serial then v else s.serial := by cases r <;> rfl
theorem writeReg_fields (r : Reg) (v : Word) (s : State) :
    (writeReg r v s).fields = if r = .fields then v else s.fields := by cases r <;> rfl
theorem writeReg_material (r : Reg) (v : Word) (s : State) :
    (writeReg r v s).material = if r = .material then v else s.material := by cases r <;> rfl
theorem writeReg_version (r : Reg) (v : Word) (s : State) :
    (writeReg r v s).version = if r = .version then lane v 0 else s.version := by cases r <;> rfl
theorem writeReg_key (r : Reg) (v : Word) (s : State) :
    (writeReg r v s).key = if r = .key then v else s.key := by cases r <;> rfl
theorem writeReg_code (r : Reg) (v : Word) (s : State) :
    (writeReg r v s).code =
      { code0 := if r = .code0 then v else s.code.code0
        code1 := if r = .code1 then v else s.code.code1
        code2 := if r = .code2 then v else s.code.code2
        code3 := if r = .code3 then v else s.code.code3
        code4 := if r = .code4 then v.setWidth 24 else s.code.code4 } := by cases r <;> rfl
@[simp] theorem writeReg_turn (r : Reg) (v : Word) (s : State) : (writeReg r v s).turn = s.turn := by cases r <;> rfl

end Sys2Proof.Machine
end

