-- ==== Sys2Proof/Laws/Ops.lean ====
section
/-! SUPPORT. What the shared operations do: lanes, code characters, working arrays, outcomes, commands. -/

namespace Sys2Proof.Machine

/-! ### Lanes -/

/-- The bits of a word made of bytes. -/
theorem getLsbD_word4 (b3 b2 b1 b0 : Byte) (i : Nat) :
    (word4 b3 b2 b1 b0).getLsbD i =
      if i < 8 then b0.getLsbD i else if i < 16 then b1.getLsbD (i - 8)
      else if i < 24 then b2.getLsbD (i - 16) else b3.getLsbD (i - 24) := by
  have h0 := BitVec.getLsbD_append (x := b3 ++ b2 ++ b1) (y := b0) (i := i)
  have h1 := BitVec.getLsbD_append (x := b3 ++ b2) (y := b1) (i := i - 8)
  have h2 := BitVec.getLsbD_append (x := b3) (y := b2) (i := i - 8 - 8)
  change (b3 ++ b2 ++ b1 ++ b0 : BitVec (8 + 8 + 8 + 8)).getLsbD i = _
  rw [h0, h1, h2, show i - 8 - 8 - 8 = i - 24 by omega, show i - 8 - 8 = i - 16 by omega]
  by_cases c0 : i < 8
  · simp [c0]
  · by_cases c1 : i < 16
    · simp [c0, c1, show i - 8 < 8 by omega]
    · by_cases c2 : i < 24
      · simp [c0, c1, c2, show ¬ i - 8 < 8 by omega, show i - 16 < 8 by omega]
      · simp [c0, c1, c2, show ¬ i - 8 < 8 by omega, show ¬ i - 16 < 8 by omega]

/-- The bits of a lane. -/
theorem getLsbD_lane (w : Word) (b i : Nat) : (lane w b).getLsbD i = (decide (i < 8) && w.getLsbD (8 * b + i)) := by
  simp [lane, BitVec.getLsbD_extractLsb']

@[simp] theorem lane_word4_0 (b3 b2 b1 b0 : Byte) : lane (word4 b3 b2 b1 b0) 0 = b0 := by
  apply BitVec.eq_of_getLsbD_eq
  intro i hi
  rw [getLsbD_lane, getLsbD_word4]
  simp [hi]

@[simp] theorem lane_word4_1 (b3 b2 b1 b0 : Byte) : lane (word4 b3 b2 b1 b0) 1 = b1 := by
  apply BitVec.eq_of_getLsbD_eq
  intro i hi
  rw [getLsbD_lane, getLsbD_word4, if_neg (by omega), if_pos (by omega)]
  simp [hi]

@[simp] theorem lane_word4_2 (b3 b2 b1 b0 : Byte) : lane (word4 b3 b2 b1 b0) 2 = b2 := by
  apply BitVec.eq_of_getLsbD_eq
  intro i hi
  rw [getLsbD_lane, getLsbD_word4, if_neg (by omega), if_neg (by omega), if_pos (by omega)]
  simp [hi]

@[simp] theorem lane_word4_3 (b3 b2 b1 b0 : Byte) : lane (word4 b3 b2 b1 b0) 3 = b3 := by
  apply BitVec.eq_of_getLsbD_eq
  intro i hi
  rw [getLsbD_lane, getLsbD_word4, if_neg (by omega), if_neg (by omega), if_neg (by omega)]
  simp [hi]

/-- A word is its four lanes. -/
theorem word4_lanes (w : Word) : word4 (lane w 3) (lane w 2) (lane w 1) (lane w 0) = w := by
  apply BitVec.eq_of_getLsbD_eq
  intro i hi
  rw [getLsbD_word4]
  simp only [getLsbD_lane]
  split_ifs with h0 h1 h2
  · simp [h0]
  · simp [show i - 8 < 8 by omega, show 8 + (i - 8) = i by omega]
  · simp [show i - 16 < 8 by omega, show 16 + (i - 16) = i by omega]
  · simp [show i - 24 < 8 by omega, show 24 + (i - 24) = i by omega]

/-- CODE4 reads as its three characters under a zero byte (10_state.md R35). -/
theorem setWidth_code4 (b2 b1 b0 : Byte) : (b2 ++ b1 ++ b0 : BitVec 24).setWidth 32 = word4 0 b2 b1 b0 := by
  apply BitVec.eq_of_getLsbD_eq
  intro i hi
  have h0 := BitVec.getLsbD_append (x := b2 ++ b1) (y := b0) (i := i)
  have h1 := BitVec.getLsbD_append (x := b2) (y := b1) (i := i - 8)
  rw [getLsbD_word4, BitVec.getLsbD_setWidth]
  change (decide (i < 32) && (b2 ++ b1 ++ b0 : BitVec (8 + 8 + 8)).getLsbD i) = _
  rw [h0, h1, show i - 8 - 8 = i - 16 by omega]
  by_cases c0 : i < 8
  · simp [c0, hi]
  · by_cases c1 : i < 16
    · simp [c0, c1, hi, show i - 8 < 8 by omega]
    · by_cases c2 : i < 24
      · simp [c0, c1, c2, hi, show ¬ i - 8 < 8 by omega]
      · simp [c0, c1, c2, show ¬ i - 8 < 8 by omega, BitVec.getLsbD_of_ge b2 (i - 16) (by omega)]

/-! ### Code characters -/

/-- The code registers hold the characters they were made from. -/
@[simp] theorem char_ofChars (a : Idx → Byte) : (CodeRegs.ofChars a).char = a := by
  funext i
  have h4 := setWidth_code4 (a 18) (a 17) (a 16)
  fin_cases i <;> simp [CodeRegs.char, CodeRegs.word, CodeRegs.ofChars, h4]

/-- The characters of the latched code are those of the code registers at acceptance. -/
@[simp] theorem codeOf_latchOf (s : State) (op : BitVec 2) : codeOf (s.latchOf op) = s.code := rfl

/-! ### Working arrays -/

@[simp] theorem setAt_same (a : Idx → Byte) (i : Idx) (c : Byte) : setAt a i c i = c := by simp [setAt]

theorem setAt_other (a : Idx → Byte) {i j : Idx} (c : Byte) (h : j ≠ i) : setAt a i c j = a j := by simp [setAt, h]

@[simp] theorem fillM_nil (f : Idx → Except ErrCode Byte) (a : Idx → Byte) : fillM [] f a = .ok a := rfl

/-- `fillM` with a function that raises nothing puts each value in its place. -/
theorem fillM_ok {is : List Idx} {f : Idx → Except ErrCode Byte} {g : Idx → Byte} (a : Idx → Byte)
    (h : ∀ i ∈ is, f i = .ok (g i)) : fillM is f a = .ok fun j => if j ∈ is then g j else a j := by
  induction is generalizing a with
  | nil => simp [fillM]
  | cons i rest ih =>
    simp only [fillM, h i (by simp)]
    rw [ih _ fun j hj => h j (by simp [hj])]
    congr 1
    funext j
    by_cases hj : j ∈ rest
    · simp [hj]
    · by_cases hi : j = i <;> simp [hj, hi, setAt]

/-- If `fillM` succeeds, every value it asked for was there. -/
theorem fillM_eq_ok {is : List Idx} {f : Idx → Except ErrCode Byte} {a b : Idx → Byte} (h : fillM is f a = .ok b) :
    (∀ i ∈ is, f i = .ok (b i)) ∧ ∀ i, i ∉ is → b i = a i := by
  induction is generalizing a with
  | nil => simp_all [fillM]
  | cons i rest ih =>
    simp only [fillM] at h
    split at h
    · cases h
    · rename_i c hc
      obtain ⟨h1, h2⟩ := ih h
      refine ⟨fun j hj => ?_, fun j hj => ?_⟩
      · by_cases hr : j ∈ rest
        · exact h1 j hr
        · have : j = i := by simpa [hr] using hj
          subst this
          rw [h2 j hr, setAt_same, hc]
      · simp only [List.mem_cons, not_or] at hj
        rw [h2 j hj.2, setAt_other _ _ hj.1]

/-- If `fillM` raises an error, one of its values raised it. -/
theorem fillM_eq_error {is : List Idx} {f : Idx → Except ErrCode Byte} {a : Idx → Byte} {e : ErrCode}
    (h : fillM is f a = .error e) : ∃ i ∈ is, f i = .error e := by
  induction is generalizing a with
  | nil => simp [fillM] at h
  | cons i rest ih =>
    simp only [fillM] at h
    split at h
    · rename_i e' he
      cases h
      exact ⟨i, by simp, he⟩
    · obtain ⟨j, hj, hf⟩ := ih h
      exact ⟨j, by simp [hj], hf⟩

/-! ### Outcomes, commands and completion -/

@[simp] theorem mapNext_next (f : State → State) (s : State) : mapNext f (.next s) = .next (f s) := rfl

/-- A mapped outcome is a next state only where the outcome was. -/
theorem mapNext_eq_next {f : State → State} {o : Host.Outcome State Fault Refusal} {t : State}
    (h : mapNext f o = .next t) : ∃ s, o = .next s ∧ t = f s := by
  cases o <;> simp_all [mapNext]

@[simp] theorem complete_ok {f : State → Except ErrCode State} {s t : State} (h : f s = .ok t) :
    complete f s = completeOk t := by simp [complete, h]

@[simp] theorem complete_error {f : State → Except ErrCode State} {s : State} {e : ErrCode} (h : f s = .error e) :
    complete f s = completeErr e s := by simp [complete, h]

/-- Every error code is one of 1..6 (60_exceptions.md R270). -/
theorem ErrCode.code_range (e : ErrCode) : 1 ≤ e.code.toNat ∧ e.code.toNat ≤ 6 := by cases e <;> decide

/-- Different errors have different codes. -/
theorem ErrCode.code_injective {e e' : ErrCode} (h : e.code = e'.code) : e = e' := by
  cases e <;> cases e' <;> first | rfl | (exact absurd h (by decide))

/-- All that issuing a command can do. -/
theorem issue_cases (op : BitVec 2) (s : State) :
    (s.status.busy = true ∧ issue op s = drop s) ∨ (s.status.busy = false ∧ issue op s = accept op s) := by
  unfold issue
  cases s.status.busy <;> simp

/-- All that a command can do: at the engine's turn it completes, else it is issued. -/
theorem command_cases (op : BitVec 2) (f : State → Except ErrCode State) (s : State) :
    (s.turn = some .engine ∧ command op f s = .next (complete f s)) ∨
    (s.turn ≠ some .engine ∧ command op f s = .next (issue op s)) := by
  unfold command
  cases h : s.turn with
  | none => simp
  | some t => cases t <;> simp

theorem command_engine {s : State} (op : BitVec 2) (f : State → Except ErrCode State) (h : s.turn = some .engine) :
    command op f s = .next (complete f s) := by simp [command, h]

theorem command_issue {s : State} (op : BitVec 2) (f : State → Except ErrCode State) (h : s.turn ≠ some .engine) :
    command op f s = .next (issue op s) := by
  rcases command_cases op f s with ⟨h', _⟩ | ⟨_, h'⟩
  · exact absurd h' h
  · exact h'

/-- Every command answers a next state. -/
theorem command_next (op : BitVec 2) (f : State → Except ErrCode State) (s : State) :
    ∃ t, command op f s = .next t := by
  rcases command_cases op f s with ⟨_, h⟩ | ⟨_, h⟩ <;> exact ⟨_, h⟩

end Sys2Proof.Machine
end

