-- ==== Sys2Proof/Laws/Alphabet.lean ====
section
/-! SUPPORT. What the alphabet table does. -/

namespace Sys2Proof.Machine

/-- `char_of` of a position the table has. -/
theorem charOf_of_lt (c : Cfg) {p : Nat} (h : p < 35) : charOf c p = .ok c.alphabet[p] := by simp [charOf, h]

/-- `char_of` of a position the table has not. -/
theorem charOf_of_ge (c : Cfg) {p : Nat} (h : 35 ≤ p) : charOf c p = .error .fieldRange := by
  simp [charOf, show ¬ p < 35 by omega]

/-- `char_of` raises nothing but FIELD_RANGE. -/
theorem charOf_error {c : Cfg} {p : Nat} {e : ErrCode} (h : charOf c p = .error e) : e = .fieldRange ∧ 35 ≤ p := by
  unfold charOf at h
  split at h
  · cases h
  · cases h
    exact ⟨rfl, by omega⟩

/-- The answer of a search is 31 or a place in the list. -/
theorem firstIndex_le (ch : Byte) (l : List Byte) (i : Nat) : firstIndex ch l i = 31 ∨ firstIndex ch l i < i + l.length := by
  induction l generalizing i with
  | nil => simp [firstIndex]
  | cons b rest ih =>
    simp only [firstIndex]
    split
    · simp
    · have := ih (i + 1)
      simp only [List.length_cons]
      omega

@[simp] theorem canonical_length (c : Cfg) : c.canonical.length = 32 := by simp [Cfg.canonical]

/-- Every position is in 0..31 (40_alphabet.md R100). -/
theorem positionOf_le (c : Cfg) (ch : Byte) : positionOf c ch ≤ 31 := by
  have := firstIndex_le ch c.canonical 0
  have hl := canonical_length c
  unfold positionOf
  omega

/-- The search finds the place of an entry none before it equals. -/
theorem firstIndex_of_get (ch : Byte) (l : List Byte) (i k : Nat) (hk : k < l.length) (heq : l[k] = ch)
    (hfirst : ∀ j, (hj : j < k) → l[j] ≠ ch) : firstIndex ch l i = i + k := by
  induction l generalizing i k with
  | nil => simp at hk
  | cons b rest ih =>
    cases k with
    | zero => simp_all [firstIndex]
    | succ k =>
      have hb : b ≠ ch := by simpa using hfirst 0 (by omega)
      simp only [firstIndex, hb, if_false]
      rw [ih (i + 1) k (by simpa using hk) (by simpa using heq)
        fun j hj => by simpa using hfirst (j + 1) (by omega)]
      omega

/-- The search answers 31 for a byte the list does not hold. -/
theorem firstIndex_of_not_mem (ch : Byte) (l : List Byte) (i : Nat) (h : ch ∉ l) : firstIndex ch l i = 31 := by
  induction l generalizing i with
  | nil => rfl
  | cons b rest ih =>
    simp only [List.mem_cons, not_or] at h
    simp only [firstIndex, if_neg (Ne.symm h.1)]
    exact ih (i + 1) h.2

/-- An entry of the canonical part, as an entry of the alphabet. -/
theorem canonical_get (c : Cfg) {k : Nat} (hk : k < 32) :
    c.canonical[k]'(by rw [canonical_length]; exact hk) = c.alphabet[k]'(by omega) := by
  simp [Cfg.canonical]

/-- Under a canonical part without repeats, `position_of` undoes `char_of` on 0..31 (00_scope.md R4 (a)). -/
theorem positionOf_alphabet {c : Cfg} (h : c.canonical.Nodup) {p : Nat} (hp : p < 32) :
    positionOf c (c.alphabet[p]'(by omega)) = p := by
  have hl := canonical_length c
  have := firstIndex_of_get (c.alphabet[p]'(by omega)) c.canonical 0 p (by omega) (canonical_get c hp)
    fun j hj he => by
      rw [← canonical_get c hp] at he
      exact absurd ((List.Nodup.getElem_inj_iff h).mp he) (by omega)
  simpa [positionOf] using this

end Sys2Proof.Machine
end

