-- ==== Sys2Proof/Laws/Shift.lean ====
section
/-! SUPPORT. Bounds of the shift engine. -/

namespace Sys2Proof.Machine

/-- The reduced offset is in 0..32 (44_shift.md R185). -/
theorem red_le (k : Nat) : red k ≤ 32 := by
  unfold red
  split <;> omega

/-- `& 0xFF` leaves a value below 256 as it is (44_shift.md R186). -/
theorem and_0xFF {v : Nat} (h : v < 256) : v &&& 0xFF = v := by
  have := Nat.and_two_pow_sub_one_eq_mod v 8
  simp at this
  omega

/-- The shift of a position is a position (44_shift.md R186). -/
theorem shift_lt (k : Nat) {p : Nat} (hp : p ≤ 31) : shift k p ≤ 31 := by
  have := red_le k
  simp only [shift, and_0xFF (show p + red k < 256 by omega)]
  split <;> omega

/-- The unshift of a position is a position (44_shift.md R188). -/
theorem unshift_lt (k : Nat) {s : Nat} (hs : s ≤ 31) : unshift k s ≤ 31 := by
  have := red_le k
  simp only [unshift]
  split <;> omega

/-- `reduce` answers a position or raises SHIFT_BASE_OVERFLOW (44_shift.md R183). -/
theorem reduceWithin_cases (n pre : Nat) :
    (∃ b, reduceWithin n pre = .ok b ∧ b ≤ 31) ∨ reduceWithin n pre = .error .shiftBaseOverflow := by
  induction n generalizing pre with
  | zero =>
    unfold reduceWithin
    split
    · exact .inr rfl
    · exact .inl ⟨pre, rfl, by omega⟩
  | succ n ih =>
    unfold reduceWithin
    split
    · exact ih _
    · exact .inl ⟨pre, rfl, by omega⟩

/-- Every raw position is a position (44_shift.md R189). -/
theorem inverseShift_le (c : Cfg) (code : Idx → Byte) (i : Idx) : inverseShift c code i ≤ 31 := by
  simp only [inverseShift]
  split
  · exact unshift_lt _ (positionOf_le c _)
  · split
    · exact positionOf_le c _
    · split
      · exact positionOf_le c _
      · omega

end Sys2Proof.Machine
end

