-- ==== Sys2Proof/Laws/Codec.lean ====
section
/-! SUPPORT. What the steps of ENCODE and DECODE leave, one lemma per step. -/

namespace Sys2Proof.Machine

/-- A sum of positions over the 13 field indices is at most 403 (43_checksum.md R160, R162). -/
theorem sum_fieldIdx_le {f : Idx → Nat} (h : ∀ i, f i ≤ 31) : (fieldIdx.map f).sum ≤ 403 := by
  simp only [fieldIdx, List.map_cons, List.map_nil, List.sum_cons, List.sum_nil]
  have h0 := h 0; have h1 := h 1; have h2 := h 2; have h3 := h 3; have h5 := h 5; have h6 := h 6
  have h10 := h 10; have h11 := h 11; have h12 := h 12; have h13 := h 13; have h15 := h 15
  have h16 := h 16; have h18 := h 18
  omega

theorem composeSum_le (c : Cfg) (e : Idx → Byte) : composeSum c e ≤ 403 :=
  sum_fieldIdx_le fun _ => positionOf_le c _

theorem verifySum_le {raw : Idx → Nat} (h : ∀ i, raw i ≤ 31) : verifySum raw ≤ 403 := sum_fieldIdx_le h

/-- A bind that succeeds had a first part that succeeds. -/
theorem bind_eq_ok {α β : Type} {x : Except ErrCode α} {f : α → Except ErrCode β} {b : β}
    (h : x >>= f = .ok b) : ∃ a, x = .ok a ∧ f a = .ok b := by
  cases x with
  | error e => cases h
  | ok a => exact ⟨a, rfl, h⟩

/-- Everything that stands behind a successful ENCODE, step by step (46_commands.md R234). -/
theorem encodeFields_eq_ok {c : Cfg} {l : Latch} {r : EncodeResult} (h : encodeFields c l = .ok r) :
    ∃ ct d hm s e e1 e2, configCodeType c l = .ok ct ∧ serialDigits l = .ok d ∧ hardwareModel c l = .ok hm ∧
      seedSequence c d.d4 = .ok s ∧ embedAll c s l = .ok e ∧ r.sum = composeSum c e ∧
      writeChecksum c r.sum e = .ok e1 ∧ reduce (shiftBaseSum c ct hm d l.key) = .ok r.base ∧
      writeShiftBase c r.base e1 = .ok e2 ∧ forwardShift c r.base e2 = .ok r.chars := by
  unfold encodeFields at h
  obtain ⟨ct, hct, h⟩ := bind_eq_ok h
  obtain ⟨d, hd, h⟩ := bind_eq_ok h
  obtain ⟨hm, hhm, h⟩ := bind_eq_ok h
  obtain ⟨s, hs, h⟩ := bind_eq_ok h
  obtain ⟨e, he, h⟩ := bind_eq_ok h
  obtain ⟨e1, h1, h⟩ := bind_eq_ok h
  obtain ⟨base, hb, h⟩ := bind_eq_ok h
  obtain ⟨e2, h2, h⟩ := bind_eq_ok h
  obtain ⟨chars, h3, h⟩ := bind_eq_ok h
  cases h
  exact ⟨ct, d, hm, s, e, e1, e2, hct, hd, hhm, hs, he, rfl, h1, hb, h2, h3⟩

/-- The ranges of a successful ENCODE's results (10_state.md R41). -/
theorem encodeFields_range {c : Cfg} {l : Latch} {r : EncodeResult} (h : encodeFields c l = .ok r) :
    r.base ≤ 31 ∧ r.sum ≤ 403 := by
  obtain ⟨ct, d, hm, s, e, e1, e2, -, -, -, -, -, hsum, -, hb, -, -⟩ := encodeFields_eq_ok h
  refine ⟨?_, hsum ▸ composeSum_le c e⟩
  rcases reduceWithin_cases 5 (shiftBaseSum c ct hm d l.key) with ⟨b, h1, h2⟩ | h1
  · rw [reduce, h1] at hb
    cases hb
    exact h2
  · rw [reduce, h1] at hb
    cases hb

/-- Everything that stands behind a successful DECODE (46_commands.md R250). -/
theorem decodeCode_eq_ok {c : Cfg} {code : Idx → Byte} {r : DecodeResult} (h : decodeCode c code = .ok r) :
    r.raw = inverseShift c code ∧ r.sum = verifySum r.raw ∧ r.sum = 16 * r.raw 7 + r.raw 8 ∧
      r.raw c.ctCheckIndex &&& c.ctCheckMask.toNat ∈ c.ctKnown := by
  unfold decodeCode at h
  obtain ⟨sum, hs, h⟩ := bind_eq_ok h
  obtain ⟨u, hu, h⟩ := bind_eq_ok h
  cases h
  unfold verify at hs
  unfold validateCodeType at hu
  split at hs
  · cases hs
  · rename_i hne
    split at hu
    · rename_i hk
      cases hs
      exact ⟨rfl, rfl, by simpa using hne, hk⟩
    · cases hu

/-- ENCODE changes its outputs only, and only if it succeeds. -/
theorem encodeOutputs_eq_ok {s t : State} (h : encodeOutputs s = .ok t) :
    ∃ r, encodeFields s.cfg s.latch = .ok r ∧ t = writeEncodeOutputs r s := by
  obtain ⟨r, hr, h⟩ := bind_eq_ok h
  cases h
  exact ⟨r, hr, rfl⟩

/-- DECODE changes its outputs only, and only if it succeeds. -/
theorem decodeOutputs_eq_ok {s t : State} (h : decodeOutputs s = .ok t) :
    ∃ r, decodeCode s.cfg (codeOf s.latch).char = .ok r ∧ t = writeDecodeOutputs r s := by
  obtain ⟨r, hr, h⟩ := bind_eq_ok h
  cases h
  exact ⟨r, hr, rfl⟩

end Sys2Proof.Machine
end

