-- ==== Sys2Proof/Laws/Step.lean ====
section
/-! SUPPORT. All that a command, a bus access and a step can do. -/

namespace Sys2Proof.Machine

/-! ### Commands -/

/-- The rule of each command that is accepted, run on the latch. -/
def outputsOf : Instr → State → Except ErrCode State
  | .nop _, s => .ok s
  | .encode _, s => encodeOutputs s
  | .decode _, s => decodeOutputs s
  | .reserved _, _ => .error .illegalCommand

/-- All that a command can do: nothing if it is NOP; else it completes at the engine's turn and is issued at any
other. -/
theorem exec_cases (i : Instr) (s : State) :
    (i.op = 0 ∧ exec i s = .next s) ∨
    (i.op ≠ 0 ∧ s.turn = some .engine ∧ exec i s = .next (complete (outputsOf i) s)) ∨
    (i.op ≠ 0 ∧ s.turn ≠ some .engine ∧ exec i s = .next (issue i.op s)) := by
  cases i with
  | nop r => exact .inl ⟨rfl, rfl⟩
  | encode r =>
    have op_ne_zero : (Instr.encode r).op ≠ 0 := show (1 : BitVec 2) ≠ 0 by decide
    rcases command_cases 1 encodeOutputs s with ⟨h, h'⟩ | ⟨h, h'⟩
    · exact .inr (.inl ⟨op_ne_zero, h, h'⟩)
    · exact .inr (.inr ⟨op_ne_zero, h, h'⟩)
  | decode r =>
    have op_ne_zero : (Instr.decode r).op ≠ 0 := show (2 : BitVec 2) ≠ 0 by decide
    rcases command_cases 2 decodeOutputs s with ⟨h, h'⟩ | ⟨h, h'⟩
    · exact .inr (.inl ⟨op_ne_zero, h, h'⟩)
    · exact .inr (.inr ⟨op_ne_zero, h, h'⟩)
  | reserved r =>
    have op_ne_zero : (Instr.reserved r).op ≠ 0 := show (3 : BitVec 2) ≠ 0 by decide
    rcases command_cases 3 (fun _ => .error .illegalCommand) s with ⟨h, h'⟩ | ⟨h, h'⟩
    · exact .inr (.inl ⟨op_ne_zero, h, h'⟩)
    · exact .inr (.inr ⟨op_ne_zero, h, h'⟩)

/-- Every command answers a next state. -/
theorem exec_next (i : Instr) (s : State) : ∃ t, exec i s = .next t := by
  rcases exec_cases i s with ⟨_, h⟩ | ⟨_, _, h⟩ | ⟨_, _, h⟩ <;> exact ⟨_, h⟩

/-- The rule of a command writes outputs only: the host's program and the schedule stay. -/
theorem outputsOf_frame {i : Instr} {s t : State} (h : outputsOf i s = .ok t) :
    t.program = s.program ∧ t.schedule = s.schedule := by
  cases i with
  | nop r =>
    cases h
    exact ⟨rfl, rfl⟩
  | encode r =>
    obtain ⟨r, -, rfl⟩ := encodeOutputs_eq_ok h
    exact ⟨rfl, rfl⟩
  | decode r =>
    obtain ⟨r, -, rfl⟩ := decodeOutputs_eq_ok h
    exact ⟨rfl, rfl⟩
  | reserved r => cases h

/-- No command changes the host's program or the schedule. -/
theorem exec_frame {i : Instr} {s t : State} (h : exec i s = .next t) :
    t.program = s.program ∧ t.schedule = s.schedule := by
  rcases exec_cases i s with ⟨_, h'⟩ | ⟨_, _, h'⟩ | ⟨_, _, h'⟩ <;> rw [h'] at h <;> cases h
  · exact ⟨rfl, rfl⟩
  · unfold complete
    split
    · rename_i u hu
      simpa using outputsOf_frame hu
    · exact ⟨rfl, rfl⟩
  · rcases issue_cases i.op s with ⟨_, h⟩ | ⟨_, h⟩ <;> rw [h] <;> exact ⟨rfl, rfl⟩

/-! ### Decoding -/

/-- The four values of OP. -/
theorem op_values (op : BitVec 2) : op = 0 ∨ op = 1 ∨ op = 2 ∨ op = 3 := by
  have := op.isLt
  rcases (show op.toNat = 0 ∨ op.toNat = 1 ∨ op.toNat = 2 ∨ op.toNat = 3 by omega) with h | h | h | h
  · exact .inl (BitVec.eq_of_toNat_eq h)
  · exact .inr (.inl (BitVec.eq_of_toNat_eq h))
  · exact .inr (.inr (.inl (BitVec.eq_of_toNat_eq h)))
  · exact .inr (.inr (.inr (BitVec.eq_of_toNat_eq h)))

@[simp] theorem decodeOp_op (op : BitVec 2) (r : BitVec 30) : (decodeOp op r).op = op := by
  rcases op_values op with rfl | rfl | rfl | rfl <;> rfl

@[simp] theorem decodeOp_ignored (op : BitVec 2) (r : BitVec 30) : (decodeOp op r).ignored = r := by
  rcases op_values op with rfl | rfl | rfl | rfl <;> rfl

/-- A register is at its offset and at no other (10_state.md R22). -/
@[simp] theorem Reg.ofOffset_offset (r : Reg) : Reg.ofOffset r.offset = some r := by cases r <;> rfl

theorem Reg.offset_of_ofOffset {off : Offset} {r : Reg} (h : Reg.ofOffset off = some r) : off = r.offset := by
  unfold Reg.ofOffset at h
  split at h <;> cases h <;> (rename_i hn; exact BitVec.eq_of_toNat_eq hn)

/-- Every register is aligned. -/
theorem Reg.offset_aligned (r : Reg) : r.offset.toNat % 4 = 0 := by cases r <;> decide

/-! ### Bus accesses -/

@[simp] theorem busRead_offset (r : Reg) (s : State) : busRead r.offset s = readReg r s := by simp [busRead]

/-- The host reads the same before and after the next turn is written down. -/
@[simp] theorem busRead_scheduled (off : Offset) (s : State) : busRead off s.scheduled = busRead off s := by
  unfold busRead
  cases Reg.ofOffset off with
  | none => rfl
  | some r => cases r <;> rfl

/-- All that a bus write can do. -/
theorem busWrite_cases (off : Offset) (v : Word) (s : State) :
    (off = Reg.cmd.offset ∧ busWrite off v s = exec (decodeWord v) s) ∨
    (∃ r, r ≠ .cmd ∧ off = r.offset ∧ busWrite off v s = .next (writeReg r v s)) ∨
    (Reg.ofOffset off = none ∧ busWrite off v s = .next s) := by
  unfold busWrite
  cases h : Reg.ofOffset off with
  | none => exact .inr (.inr ⟨rfl, rfl⟩)
  | some r =>
    have hoff := Reg.offset_of_ofOffset h
    cases r <;> first
      | exact .inl ⟨hoff, rfl⟩
      | exact .inr (.inl ⟨_, by decide, hoff, rfl⟩)

/-- Every bus write the bus allows answers a next state. -/
theorem busWrite_next (off : Offset) (v : Word) (s : State) : ∃ t, busWrite off v s = .next t := by
  rcases busWrite_cases off v s with ⟨_, h⟩ | ⟨_, _, _, h⟩ | ⟨_, h⟩
  · rw [h]
    exact exec_next _ _
  · exact ⟨_, h⟩
  · exact ⟨_, h⟩

/-! ### Turns and steps -/

theorem turn_of_schedule {s : State} {t : Turn} {rest : List Turn} (h : s.schedule = t :: rest) : s.turn = some t := by
  simp [State.turn, h]

/-- Where the schedule names a turn, that turn is next. -/
theorem nextTurn_of_turn {s : State} {a : Turn} (h : s.turn = some a) : s.nextTurn = a := by
  obtain ⟨rest, hs⟩ := List.head?_eq_some_iff.mp h
  simp [State.nextTurn, hs]

/-- Where the schedule names a turn, it is written down already. -/
theorem scheduled_of_turn {s : State} {a : Turn} (h : s.turn = some a) : s.scheduled = s := by
  obtain ⟨rest, hs⟩ := List.head?_eq_some_iff.mp h
  cases s
  cases hs
  rfl

theorem nextTurn_of_schedule {s : State} {t : Turn} {rest : List Turn} (h : s.schedule = t :: rest) : s.nextTurn = t :=
  nextTurn_of_turn (turn_of_schedule h)

/-- Past the end of the schedule, a command in flight is the engine's turn (70_reset_and_hazards.md R306). -/
theorem nextTurn_of_nil {s : State} (h : s.schedule = []) : s.nextTurn = if s.status.busy then .engine else .host := by
  simp [State.nextTurn, h]

/-- A step of a state whose turn is the host's, the engine's or a reset is that agent's. -/
theorem step_of_host {s : State} (h : s.nextTurn = .host) : step s = hostTurn s.scheduled := by simp [step, h]

theorem step_of_engine {s : State} (h : s.nextTurn = .engine) : step s = engineTurn s.scheduled := by simp [step, h]

theorem step_of_reset {s : State} (h : s.nextTurn = .reset) : step s = resetTurn s.scheduled := by simp [step, h]

/-- Writing the next turn down does not change the step. -/
theorem step_scheduled (s : State) : step s.scheduled = step s := by simp [step]

/-- All that a step can do, if it answers a next state, in terms of the state with its turn written down. -/
theorem step_cases {s t : State} (h : step s = .next t) :
    (s.nextTurn = .host ∧ s.program = [] ∧ t = endTurn s.scheduled) ∨
    (∃ off x, s.nextTurn = .host ∧ t = retire (observe off x s.scheduled)) ∨
    (s.nextTurn = .host ∧ t = endTurn (observe Reg.status.offset none s.scheduled)) ∨
    (∃ off v u, s.nextTurn = .host ∧ s.program.head? = some (HostOp.wr off v) ∧ off.toNat % 4 = 0 ∧
      busWrite off v s.scheduled = .next u ∧ t = retire u) ∨
    (s.nextTurn = .engine ∧ s.status.busy = false ∧ t = endTurn s.scheduled) ∨
    (∃ u, s.nextTurn = .engine ∧ s.status.busy = true ∧ exec (decodeOp s.latch.op 0) s.scheduled = .next u ∧
      t = endTurn u) ∨
    (s.nextTurn = .reset ∧ t = endTurn (resetBlock s.scheduled)) := by
  cases ht : s.nextTurn with
  | host =>
    rw [step_of_host ht] at h
    simp only [hostTurn, State.scheduled_program] at h
    split at h
    · cases h
      exact .inl ⟨rfl, by assumption, rfl⟩
    · rename_i a rest hp
      refine .inr ?_
      obtain ⟨u, hu, rfl⟩ := mapNext_eq_next h
      unfold busAccess at hu
      split at hu
      · rename_i hw
        cases a with
        | read off w =>
          cases hu
          exact .inl ⟨off, none, rfl, rfl⟩
        | write off w v =>
          simp only [Access.wellFormed, Bool.and_eq_true, beq_iff_eq] at hw
          obtain ⟨rfl, hoff⟩ := hw
          exact .inr (.inr (.inl ⟨off, v, u, rfl, by rw [hp]; rfl, hoff, hu, rfl⟩))
      · cases hu
    · rename_i off v rest hp
      split at h
      · cases h
        exact .inr (.inl ⟨off, some v, rfl, rfl⟩)
      · cases h
    · cases h
      refine .inr ?_
      unfold waitStep
      simp only
      split
      · exact .inr (.inl ⟨trivial, rfl⟩)
      · exact .inl ⟨_, none, trivial, rfl⟩
  | engine =>
    rw [step_of_engine ht] at h
    unfold engineTurn at h
    split at h
    · rename_i hb
      obtain ⟨u, hu, rfl⟩ := mapNext_eq_next h
      exact .inr (.inr (.inr (.inr (.inr (.inl ⟨u, rfl, hb, hu, rfl⟩)))))
    · rename_i hb
      cases h
      exact .inr (.inr (.inr (.inr (.inl ⟨rfl, by simpa using hb, rfl⟩))))
  | reset =>
    rw [step_of_reset ht] at h
    cases h
    exact .inr (.inr (.inr (.inr (.inr (.inr ⟨rfl, rfl⟩)))))

/-- Every step uses up one turn of the schedule, if one is left. -/
theorem step_schedule {s t : State} (h : step s = .next t) : t.schedule = s.schedule.tail := by
  rcases step_cases h with ⟨_, _, rfl⟩ | ⟨_, _, _, rfl⟩ | ⟨_, rfl⟩ | ⟨off, v, u, _, _, _, hu, rfl⟩ | ⟨_, _, rfl⟩ |
    ⟨u, _, _, hu, rfl⟩ | ⟨_, rfl⟩
  · rfl
  · rfl
  · rfl
  · rcases busWrite_cases off v s.scheduled with ⟨_, h⟩ | ⟨_, _, _, h⟩ | ⟨_, h⟩ <;> rw [h] at hu
    · simp [exec_frame hu]
    · cases hu
      simp
    · cases hu
      rfl
  · rfl
  · simp [exec_frame hu]
  · rfl

end Sys2Proof.Machine
end

