-- ==== Sys2Proof/Laws/Flags.lean ====
section
/-! SUPPORT. What a completion reports in STATUS, and the bits of STATUS, of the packed output registers and of a command word. -/

namespace Sys2Proof.Machine

@[simp] theorem reports_ok {α : Type} (st : Status) (a : α) :
    Reports st (.ok a : Except ErrCode α) ↔ st.err = false ∧ st.errcode = 0 := Iff.rfl

@[simp] theorem reports_error {α : Type} (st : Status) (e : ErrCode) :
    Reports st (.error e : Except ErrCode α) ↔ st.err = true ∧ st.errcode = e.code := Iff.rfl

/-- A completion reports how its rule ended (60_exceptions.md R271). -/
theorem complete_reports (outputs : State → Except ErrCode State) (s : State) :
    Reports (complete outputs s).status (outputs s) := by
  unfold complete
  split <;> rename_i h <;> rw [h] <;> exact ⟨rfl, rfl⟩

/-- The bits of STATUS (10_state.md R24). -/
theorem getLsbD_statusWord (st : Status) (i : Nat) :
    st.word.getLsbD i =
      if i = 0 then st.busy else if i = 1 then st.done else if i = 2 then st.err else if i = 3 then st.ovr
      else if i < 8 then false else if i < 12 then st.errcode.getLsbD (i - 8) else false := by
  have a0 := BitVec.getLsbD_append
    (x := 0#20 ++ st.errcode ++ 0#4 ++ BitVec.ofBool st.ovr ++ BitVec.ofBool st.err ++ BitVec.ofBool st.done)
    (y := BitVec.ofBool st.busy) (i := i)
  have a1 := BitVec.getLsbD_append
    (x := 0#20 ++ st.errcode ++ 0#4 ++ BitVec.ofBool st.ovr ++ BitVec.ofBool st.err)
    (y := BitVec.ofBool st.done) (i := i - 1)
  have a2 := BitVec.getLsbD_append
    (x := 0#20 ++ st.errcode ++ 0#4 ++ BitVec.ofBool st.ovr) (y := BitVec.ofBool st.err) (i := i - 1 - 1)
  have a3 := BitVec.getLsbD_append
    (x := 0#20 ++ st.errcode ++ 0#4) (y := BitVec.ofBool st.ovr) (i := i - 1 - 1 - 1)
  have a4 := BitVec.getLsbD_append (x := 0#20 ++ st.errcode) (y := 0#4) (i := i - 1 - 1 - 1 - 1)
  have a5 := BitVec.getLsbD_append (x := 0#20) (y := st.errcode) (i := i - 1 - 1 - 1 - 1 - 4)
  change (0#20 ++ st.errcode ++ 0#4 ++ BitVec.ofBool st.ovr ++ BitVec.ofBool st.err ++ BitVec.ofBool st.done ++
    BitVec.ofBool st.busy : BitVec (20 + 4 + 4 + 1 + 1 + 1 + 1)).getLsbD i = _
  rw [a0, a1, a2, a3, a4, a5]
  rcases (show i = 0 ∨ i = 1 ∨ i = 2 ∨ i = 3 ∨ (4 ≤ i ∧ i < 8) ∨ (8 ≤ i ∧ i < 12) ∨ 12 ≤ i by omega) with
    rfl | rfl | rfl | rfl | ⟨h, h'⟩ | ⟨h, h'⟩ | h
  · simp
  · simp
  · simp
  · simp
  · simp [show ¬ i < 1 by omega, show ¬ i - 1 < 1 by omega, show ¬ i - 1 - 1 < 1 by omega,
      show ¬ i - 1 - 1 - 1 < 1 by omega, show i - 1 - 1 - 1 - 1 < 4 by omega, show ¬ i = 0 by omega,
      show ¬ i = 1 by omega, show ¬ i = 2 by omega, show ¬ i = 3 by omega, h']
  · simp [show ¬ i < 1 by omega, show ¬ i - 1 < 1 by omega, show ¬ i - 1 - 1 < 1 by omega,
      show ¬ i - 1 - 1 - 1 < 1 by omega, show ¬ i - 1 - 1 - 1 - 1 < 4 by omega, show ¬ i = 0 by omega,
      show ¬ i = 1 by omega, show ¬ i = 2 by omega, show ¬ i = 3 by omega, h', show ¬ i < 8 by omega,
      show i - 1 - 1 - 1 - 1 - 4 = i - 8 by omega, show i - 8 < 4 by omega]
  · simp [show ¬ i < 1 by omega, show ¬ i - 1 < 1 by omega, show ¬ i - 1 - 1 < 1 by omega,
      show ¬ i - 1 - 1 - 1 < 1 by omega, show ¬ i - 1 - 1 - 1 - 1 < 4 by omega, show ¬ i = 0 by omega,
      show ¬ i = 1 by omega, show ¬ i = 2 by omega, show ¬ i = 3 by omega, show ¬ i < 12 by omega,
      show ¬ i < 8 by omega, show ¬ i - 1 - 1 - 1 - 1 - 4 < 4 by omega]

/-- The bits of a command word (30_encoding.md R80). -/
theorem getLsbD_encode (i : Instr) (k : Nat) :
    (encode i).getLsbD k = if k < 2 then i.op.getLsbD k else i.ignored.getLsbD (k - 2) := by
  have := BitVec.getLsbD_append (x := i.ignored) (y := i.op) (i := k)
  change (i.ignored ++ i.op : BitVec (30 + 2)).getLsbD k = _
  exact this

end Sys2Proof.Machine
end

