-- ==== Sys2Proof/Laws/PerInstr.lean ====
section
/-! SUPPORT. Statements about every command as syntax, one lemma per constructor. -/

namespace Sys2Proof.Laws.CommandBits

/-- The bits of a command's word: OP in bits 1:0 and nothing of OP above them (30_encoding.md R80). -/
def Statement (i : Instr) : Prop :=
  (Sys2Proof.encode i).getLsbD 0 = i.op.getLsbD 0 ∧ (Sys2Proof.encode i).getLsbD 1 = i.op.getLsbD 1 ∧
  ∀ k, (Sys2Proof.encode i).getLsbD (k + 2) = i.ignored.getLsbD k

/-- The bits of a command's word, for every command. -/
theorem all (i : Instr) : Statement i := by
  refine ⟨?_, ?_, fun k => ?_⟩ <;> rw [Machine.getLsbD_encode] <;> simp

theorem nop (r : BitVec 30) : Statement (.nop r) := all _

theorem encode (r : BitVec 30) : Statement (.encode r) := all _

theorem decode (r : BitVec 30) : Statement (.decode r) := all _

theorem reserved (r : BitVec 30) : Statement (.reserved r) := all _

end Sys2Proof.Laws.CommandBits
end

