-- ==== Sys2Proof/Tests/TestConfig.lean ====
section
/-! SUPPORT. The test configuration T0 of 95_test_vectors.md §2, which the spec invents to exercise its rules, and
small states over it. It is not the device's configuration. -/

namespace Sys2Proof.Tests

open Sys2Proof.Machine

/-- A character as its ASCII byte (93_implementation_defined.md G2). -/
def ascii (ch : Char) : Byte := BitVec.ofNat 8 ch.toNat

/-- The T0 alphabet, "ABCDEFGHJKLMNPQRSTUVWXYZ23456789" and "BIZ" (95_test_vectors.md §2). -/
def t0Alphabet : Vector Byte 35 :=
  #v[0x41, 0x42, 0x43, 0x44, 0x45, 0x46, 0x47, 0x48, 0x4A, 0x4B, 0x4C, 0x4D, 0x4E, 0x50, 0x51, 0x52,
     0x53, 0x54, 0x55, 0x56, 0x57, 0x58, 0x59, 0x5A, 0x32, 0x33, 0x34, 0x35, 0x36, 0x37, 0x38, 0x39,
     0x42, 0x49, 0x5A]

/-- The T0 seed rows (95_test_vectors.md §3.2). -/
def t0Seed : Vector (Vector Nat 19) 10 :=
  #v[#v[1, 8, 15, 22, 29, 4, 11, 18, 25, 0, 7, 14, 21, 28, 3, 10, 17, 24, 31],
     #v[4, 11, 18, 25, 0, 7, 14, 21, 28, 3, 10, 17, 24, 31, 6, 13, 20, 27, 2],
     #v[7, 14, 21, 28, 3, 10, 17, 24, 31, 6, 13, 20, 27, 2, 9, 16, 23, 30, 5],
     #v[10, 17, 33, 31, 6, 13, 20, 27, 2, 9, 16, 23, 30, 5, 12, 19, 26, 1, 8],
     #v[13, 20, 27, 2, 9, 16, 23, 30, 5, 12, 19, 26, 1, 8, 15, 22, 29, 4, 11],
     #v[16, 23, 30, 32, 12, 19, 26, 1, 8, 15, 22, 29, 4, 11, 18, 25, 0, 7, 14],
     #v[19, 26, 1, 8, 15, 22, 29, 4, 11, 18, 25, 0, 7, 14, 21, 28, 3, 10, 17],
     #v[22, 29, 4, 11, 18, 25, 0, 7, 14, 21, 28, 3, 10, 17, 24, 31, 6, 13, 20],
     #v[25, 0, 7, 14, 21, 28, 3, 10, 17, 24, 31, 6, 13, 20, 27, 2, 9, 16, 23],
     #v[28, 3, 10, 17, 24, 31, 6, 13, 20, 27, 2, 9, 16, 23, 30, 5, 12, 19, 26]]

/-- T0 (95_test_vectors.md §2). -/
def t0 : Cfg :=
  { alphabet := t0Alphabet
    seed := t0Seed
    magic := #v[3, 1, 4, 1, 0, 5, 9, 0, 0, 0, 2, 6, 5, 3, 0, 5, 8, 0, 30]
    sn := #v[#v[0, 3, 6, 9, 12, 15, 18, 21, 24, 27], #v[1, 3, 5, 7, 9, 11, 13, 15, 17, 19],
             #v[0, 1, 2, 3, 4, 5, 6, 7, 8, 9], #v[0, 5, 3, 1, 6, 4, 2, 0, 5, 3]]
    snMod := #v[0, 1, 2, 0, 1, 2, 0, 1, 2, 0]
    ctTable := #v[0, 0, 0, 7]
    hmTable := [0, 11, 22, 5]
    hmMask := 0x03
    ctConfigId := 3
    ctKnown := [1, 2, 3]
    ctCheckIndex := 15
    ctCheckMask := 0x03
    base := 0 }

/-! ### Small states -/

def emptyLatch : Latch :=
  { op := 0, serial := 0, fields := 0, material := 0, version := 0, key := 0
    code0 := 0, code1 := 0, code2 := 0, code3 := 0, code4 := 0 }

/-- The latch of an ENCODE. -/
def encodeLatch (serial fields material : Word) (version : Byte) (key : Word) : Latch :=
  { emptyLatch with op := 1, serial := serial, fields := fields, material := material, version := version, key := key }

/-- The latch of a DECODE of these code registers. -/
def decodeLatch (c : CodeRegs) : Latch :=
  { emptyLatch with op := 2, code0 := c.code0, code1 := c.code1, code2 := c.code2, code3 := c.code3, code4 := c.code4 }

/-- The state after reset under T0, with an empty latch. -/
def idle : State := { State.resetWith t0 with latch := emptyLatch }

/-- STATUS from the fields of its word. -/
def status (errcode : BitVec 4) (ovr err done busy : Bool) : Status := { busy, done, err, ovr, errcode }

/-- A state in which the host is about to do one operation. -/
def hostState (st : Status) (op : HostOp) : State := { idle with status := st, program := [op], schedule := [.host] }

/-- A state in which the engine is about to complete the command in the latch. -/
def busyState (l : Latch) : State :=
  { idle with latch := l, status := status 0 false false false true, schedule := [.engine] }

/-- Whether an outcome is a next state that passes a test. -/
def nextIs (o : Host.Outcome State Fault Refusal) (p : State → Bool) : Bool :=
  match o with
  | .next t => p t
  | _ => false

/-- Whether an outcome is this fault. -/
def faultIs (o : Host.Outcome State Fault Refusal) (f : Fault) : Bool :=
  match o with
  | .fault g => g == f
  | _ => false

/-- Whether a codec rule succeeds. -/
def isOk {α : Type} (x : Except ErrCode α) : Bool :=
  match x with
  | .ok _ => true
  | .error _ => false

theorem exists_next {o : Host.Outcome State Fault Refusal} {p : State → Bool} (h : nextIs o p = true) :
    ∃ t, o = .next t ∧ p t = true := by
  cases o with
  | next t => exact ⟨t, rfl, h⟩
  | fault f => cases h
  | refused q => cases h

theorem exists_fault {o : Host.Outcome State Fault Refusal} {f : Fault} (h : faultIs o f = true) : o = .fault f := by
  cases o with
  | next t => cases h
  | fault g => simp_all [faultIs]
  | refused q => cases h

theorem exists_ok {α : Type} {x : Except ErrCode α} (h : isOk x = true) : ∃ a, x = .ok a := by
  cases x with
  | ok a => exact ⟨a, rfl⟩
  | error e => cases h

end Sys2Proof.Tests
end

