-- ==== Sys2Proof/Tests/Slice0.lean ====
section
/-! SUPPORT. Tests: the checks of WellFormed refuse ill-formed terms; command words written out from the encoding; one
step of each command and of the bus, with the results 95_test_vectors.md gives. -/

namespace Sys2Proof.Tests

open Sys2Proof.Machine

/-! ### WellFormed: one ill-formed term for each check -/

theorem test_wf_t0 : t0.WF := by decide

theorem test_wf_access_misaligned : (Access.read 0x21 32).wellFormed = false := by decide
theorem test_wf_access_width : (Access.write 0x20 16 0).wellFormed = false := by decide
theorem test_wf_operand_offset : (RegOperand.offset 0x02).wellFormed = false := by decide
theorem test_wf_line_offset : (HostLine.wr (.offset 0xFF) 0).wellFormed = false := by decide
theorem test_wf_alphabet_repeats : ¬ { t0 with alphabet := t0Alphabet.set 1 0x41 }.AlphabetOk := by decide
theorem test_wf_alphabet_has_separator : ¬ { t0 with alphabet := t0Alphabet.set 31 0x2D }.AlphabetOk := by decide
theorem test_wf_seed_entry_35 : ¬ { t0 with seed := t0Seed.set 9 (t0Seed[9].set 18 35) }.SeedOk := by decide
theorem test_wf_hm_mask : ¬ { t0 with hmMask := 0x02 }.HardwareModelOk := by decide
theorem test_wf_hm_count_over_mask : ¬ { t0 with hmMask := 0x01 }.HardwareModelOk := by decide
theorem test_wf_code_type_unknown : ¬ { t0 with ctKnown := [0, 1, 2] }.CodeTypeOk := by decide
theorem test_wf_hm_table_empty : ¬ { t0 with hmTable := [] }.InRange := by decide
theorem test_wf_known_code_type_32 : ¬ { t0 with ctKnown := [32] }.InRange := by decide
theorem test_wf_check_index_separator : ¬ { t0 with ctCheckIndex := 9 }.InRange := by decide
theorem test_wf_check_mask_zero : ¬ { t0 with ctCheckMask := 0 }.InRange := by decide
theorem test_wf_check_mask_0x20 : ¬ { t0 with ctCheckMask := 0x20 }.InRange := by decide

/-! ### Decoding: words written out bit by bit from 30_encoding.md R80, R81, bits 31:2 then OP -/

theorem test_decode_nop : decodeWord 0b11111111111111111111111111111100 = .nop 0x3FFFFFFF := by decide
theorem test_decode_encode : decodeWord 0b00000000000000000000000000000001 = .encode 0 := by decide
/-- 95_test_vectors.md §6: `wr CMD, 0xFFFFFFFD` has OP = 1. -/
theorem test_decode_encode_high_bits : decodeWord 0xFFFFFFFD = .encode 0x3FFFFFFF := by decide
theorem test_decode_decode : decodeWord 0b10000000000000000000000000000010 = .decode 0x20000000 := by decide
theorem test_decode_reserved : decodeWord 0b00000000000000000000000000000111 = .reserved 1 := by decide
/-- Little-endian (20_memory.md R61): the byte with OP is the first. -/
theorem test_decode_bytes : decodeBytes [0x02, 0x00, 0x00, 0x80, 0xAA] = .ok (.decode 0x20000000, [0xAA]) := by rfl
theorem test_decode_truncated : decodeBytes [0x02, 0x00, 0x00] = .error .truncated := by rfl
theorem test_encode_bytes : encodeBytes (.decode 0x20000000) = [0x02, 0x00, 0x00, 0x80] := by decide

/-! ### One step of each command -/

/-- 95_test_vectors.md §6: NOP leaves STATUS 0x00000002. -/
theorem test_nop_keeps_status :
    nextIs (step (hostState (status 0 false false true false) (.wr 0x00 0x0))) (fun t => t.status.word == 0x2) = true := by
  decide

/-- 95_test_vectors.md §6: NOP while busy sets no OVR. -/
theorem test_nop_while_busy :
    nextIs (step (hostState (status 0 false false false true) (.wr 0x00 0x0))) (fun t => t.status.word == 0x1) = true := by
  decide

/-- V6 of 95_test_vectors.md §4, with its code words of §7: an alias seed, an odd serial, two reductions. -/
theorem test_encode_v6 :
    nextIs (step (busyState (encodeLatch 0x05090909 0x03030303 0x1F1F1F1F 0x03 0)))
      (fun t => t.code == ⟨0x5251445A, 0x5237522D, 0x534E2D4D, 0x4D2D3333, 0x474D55⟩ && busRead 0x54 t == 0x00FB000B &&
        t.status.word == 0x2) = true := by
  decide

/-- E11 of 95_test_vectors.md §4: FIELD_RANGE comes before SHIFT_BASE_OVERFLOW. -/
theorem test_encode_e11 :
    nextIs (step (busyState (encodeLatch 0x0A030201 0x03010201 0x08070605 0x01 192)))
      (fun t => t.status.word == 0x306 && t.code == idle.code) = true := by
  decide

/-- D12 of 95_test_vectors.md §5: V1's code with 'X' at the separator index 4. -/
theorem test_decode_d12 :
    nextIs (step (busyState (decodeLatch ⟨0x4743344A, 0x48525158, 0x544E2D45, 0x412D534E, 0x4A4557⟩)))
      (fun t => busRead 0x40 t == 0x04030201 && busRead 0x44 t == 0x03010201 && busRead 0x48 t == 0x08070605 &&
        busRead 0x4C t == 0x00000401 && busRead 0x50 t == 0x00740407 && t.status.word == 0x2) = true := by
  decide

/-- M5 of 95_test_vectors.md §5: the checksum passes and the code type does not. -/
theorem test_decode_m5 :
    nextIs (step (busyState (decodeLatch ⟨0x4743344A, 0x4852512D, 0x544E2D42, 0x372D534E, 0x4A4557⟩)))
      (fun t => t.dSerial == 0 && t.status.word == 0x606) = true := by
  decide

/-- 95_test_vectors.md §6: OP = 3 is accepted. -/
theorem test_reserved_accepted :
    nextIs (step (hostState (status 0 false false true false) (.wr 0x00 0x3)))
      (fun t => t.status.word == 0x1 && t.latch.op == 3) = true := by
  decide

/-- 95_test_vectors.md §6: OP = 3 completes with STATUS 0x00000106. -/
theorem test_reserved_completes :
    nextIs (step (busyState { emptyLatch with op := 3 })) (fun t => t.status.word == 0x106) = true := by
  decide

/-! ### One step of the bus -/

/-- 95_test_vectors.md §6: a command while busy is dropped and sets OVR. -/
theorem test_command_while_busy :
    nextIs (step (hostState (status 0 false false false true) (.wr 0x00 0x1)))
      (fun t => t.status.word == 0x9 && t.latch == emptyLatch) = true := by
  decide

/-- 95_test_vectors.md §6: `wr STATUS, 0x4` clears ERR and ERRCODE. -/
theorem test_status_clears_err :
    nextIs (step (hostState (status 5 true true true false) (.wr 0x04 0x4))) (fun t => t.status.word == 0xA) = true := by
  decide

/-- 95_test_vectors.md §6: `wr STATUS, 0xFFFFFFF1` changes nothing. -/
theorem test_status_reserved_bits :
    nextIs (step (hostState (status 0 false false true false) (.wr 0x04 0xFFFFFFF1)))
      (fun t => t.status.word == 0x2) = true := by
  decide

/-- 20_memory.md R62 and 10_state.md R35: byte 0x33 keeps nothing. -/
theorem test_code4_reserved_byte :
    nextIs (step (hostState Status.reset (.wr 0x30 0xFF4A4557))) (fun t => busRead 0x30 t == 0x004A4557) = true := by
  decide

/-- 20_memory.md R64. -/
theorem test_bus_fault :
    faultIs (step (hostState Status.reset (.access (.read 0x05 32)))) (.busFault 0x05) = true := by
  decide

end Sys2Proof.Tests
end

