-- ==== Sys2Proof/Tests/Witnesses.lean ====
section
/-! SUPPORT. For every statement of Certificates/Slice0/Obligations.lean that has hypotheses, a concrete state and
operands that meet them; where it has several clauses, one for each, at the ends of its ranges. -/

namespace Sys2Proof.Tests

open Sys2Proof.Machine

/-! ### Sample latches and code registers (95_test_vectors.md §§4, 5, 7) -/

def v1 : Latch := encodeLatch 0x04030201 0x03010201 0x08070605 0x01 0

def v1Code : CodeRegs := ⟨0x4743344A, 0x4852512D, 0x544E2D45, 0x412D534E, 0x4A4557⟩

def v1Digits : Digits := ⟨1, 2, 3, 4⟩

def d1 : Latch := decodeLatch v1Code

/-- E9 of 95_test_vectors.md §4: a compose sum of 261. -/
def e9 : Latch := encodeLatch 0x03090909 0x03030303 0x1F1F1F1F 0x03 0

def busyStatus : Status := status 0 false false false true

/-! ### The command word -/

theorem witness_EveryWordDecodesByItsLowTwoBits :
    (0xFFFFFFFC : Word).extractLsb' 0 2 = 0 ∧ (0xFFFFFFFD : Word).extractLsb' 0 2 = 1 ∧
    (0x00000002 : Word).extractLsb' 0 2 = 2 ∧ (0x80000003 : Word).extractLsb' 0 2 = 3 := by decide

theorem witness_DecodeUndoesEncode : (Instr.decode 0x3FFFFFFF).wellFormed = true := by decide

theorem witness_CmdIssuesByItsLowBitsAndReadsZero :
    (0x00000001 : Word).extractLsb' 0 2 = (0xFFFFFFFD : Word).extractLsb' 0 2 ∧
    (hostState busyStatus (.rd 0x00)).nextTurn = .host ∧
    (hostState busyStatus (.rd 0x00)).program.head? = some (HostOp.rd Reg.cmd.offset) := by decide

/-! ### A step -/

/-- A turn the schedule names, and both turns past its end. -/
theorem witness_StepRunsTheDecodedCommand :
    HostWrites (hostState Status.reset (.wr 0x00 0xFFFFFFFD)) .cmd 0xFFFFFFFD ∧
    (busyState v1).nextTurn = .engine ∧ (busyState v1).status.busy = true ∧ (busyState v1).turn = some .engine ∧
    { busyState v1 with schedule := [] }.nextTurn = .engine ∧ { idle with schedule := [] }.nextTurn = .host := by decide

/-- Misaligned and too narrow reads and writes, and a misaligned expectation. -/
theorem witness_StepFaultsExactlyOnBadAccesses :
    (hostState Status.reset (.access (.read 0x01 32))).nextTurn = .host ∧ (0x01 : Offset).toNat % 4 ≠ 0 ∧
    (hostState Status.reset (.access (.write 0xFC 31 0))).program.head? = some (.access (.write 0xFC 31 0)) ∧
    (31 : Nat) ≠ 32 ∧
    (hostState Status.reset (.expect 0xFF 0)).program.head? = some (.expect 0xFF 0) ∧ (0xFF : Offset).toNat % 4 ≠ 0 ∧
    step (hostState Status.reset (.access (.read 0x01 32))) = .fault (.busFault 0x01) ∧
    step (hostState Status.reset (.access (.write 0xFC 31 0))) = .fault (.busFault 0xFC) ∧
    step (hostState Status.reset (.expect 0xFF 0)) = .fault (.busFault 0xFF) :=
  ⟨by decide, by decide, by decide, by decide, by decide, by decide, exists_fault (by decide), exists_fault (by decide),
    exists_fault (by decide)⟩

theorem witness_NoStepChangesTheConfiguration : ∃ t, step (busyState v1) = .next t ∧ t.status.done = true :=
  exists_next (by decide)

/-! ### The register window -/

/-- The first and last reserved offsets, the ends of a gap, and an offset inside a register. -/
theorem witness_ReservedSpaceReadsZeroAndIgnoresWrites :
    (∀ off ∈ ([0x1C, 0x34, 0x3C, 0x58, 0xFC, 0x33] : List Offset),
      off.toNat ∉ [0x00, 0x04, 0x08, 0x0C, 0x10, 0x14, 0x18, 0x20, 0x24, 0x28, 0x2C, 0x30, 0x40, 0x44, 0x48, 0x4C, 0x50,
        0x54]) ∧
    (0xFFFFFFFD : Word).extractLsb' 0 2 = (0x00000001 : Word).extractLsb' 0 2 ∧
    (0xFFFFFFF1 : Word).extractLsb' 1 3 = (0x00000000 : Word).extractLsb' 1 3 ∧
    (0xFFFFFF07 : Word).extractLsb' 0 8 = (0x00000007 : Word).extractLsb' 0 8 ∧
    (0xFF4A4557 : Word).extractLsb' 0 24 = (0x004A4557 : Word).extractLsb' 0 24 := by decide

theorem witness_RegisterMapReadsAndWrites :
    (∀ off ∈ ([0x1C, 0xFC, 0x33] : List Offset), ∀ r ∈ [Reg.cmd, .key, .code0, .code4, .eInfo], off ≠ r.offset) ∧
    Reg.serial ∈ rwRegisters ∧ Reg.code4 ∈ rwRegisters ∧ (0x54 : Offset) ≠ Reg.code4.offset ∧
    Reg.dSerial ∈ roRegisters ∧ Reg.eInfo ∈ roRegisters := by decide

theorem witness_StatusFieldsAndWriteOneToClear :
    (0x0000000E : Word).getLsbD 1 = true ∧ (0x0000000E : Word).getLsbD 2 = true ∧
    (0x0000000E : Word).getLsbD 3 = true ∧ (0xFFFFFFF1 : Word).getLsbD 1 = false ∧
    (0xFFFFFFF1 : Word).getLsbD 2 = false ∧ (0xFFFFFFF1 : Word).getLsbD 3 = false := by decide

theorem witness_WindowIsLittleEndian : (0 : Nat) < 4 ∧ (3 : Nat) < 4 := by decide

theorem witness_SideEffectsOfAccesses :
    ((hostState busyStatus (.rd 0x04)).nextTurn = .host ∧
      (hostState busyStatus (.rd 0x04)).program.head? = some (HostOp.rd 0x04) ∧ (0x04 : Offset).toNat % 4 = 0) ∧
    (Reg.code4 ∈ rwRegisters ∧ Reg.serial ∈ rwRegisters ∧ (0x33 : Offset) ≠ Reg.code4.offset) ∧
    ((∀ r, (0x54 : Offset) = r.offset → r ∈ roRegisters) ∧ ∀ r, (0xFC : Offset) = r.offset → r ∈ roRegisters) ∧
    ((Instr.encode 0).op ≠ 0 ∧ (Instr.reserved 1).op ≠ 0 ∧
      ∃ t, exec (.encode 0) (hostState Status.reset (.wr 0x00 0x1)) = .next t) :=
  ⟨by decide, by decide,
    ⟨fun r => by cases r <;> decide, fun r => by cases r <;> decide⟩, by decide, by decide, _, rfl⟩

/-! ### Issue and the life of STATUS -/

theorem witness_CommandAcceptanceAndCompletion :
    ((hostState Status.reset (.wr 0x00 0x1)).turn = some .host ∧ (Instr.nop 0).op = 0 ∧ (Instr.encode 0).op ≠ 0 ∧
      (hostState Status.reset (.wr 0x00 0x1)).status.busy = false ∧
      (hostState busyStatus (.wr 0x00 0x1)).turn = some .host ∧
      (hostState busyStatus (.wr 0x00 0x1)).status.busy = true) ∧
    { idle with schedule := [.engine] }.nextTurn = .engine ∧ { idle with schedule := [.engine] }.status.busy = false ∧
    (busyState d1).nextTurn = .engine ∧ (busyState d1).status.busy = true ∧ (busyState d1).latch.op ≠ 0 := by decide

/-- An acceptance, a completion, a reset of a busy block and a host write to a busy block. -/
theorem witness_BusyIsSetByAcceptanceAndClearedByCompletion :
    (HostWrites (hostState Status.reset (.wr 0x00 0x2)) .cmd 0x2 ∧ (0x2 : Word).extractLsb' 0 2 ≠ 0 ∧
      ∃ t, step (hostState Status.reset (.wr 0x00 0x2)) = .next t ∧ t.status.busy = true) ∧
    ((busyState v1).nextTurn = .engine ∧ (busyState v1).latch.op ≠ 0 ∧
      ∃ t, step (busyState v1) = .next t ∧ t.status.busy = false) ∧
    (∃ t, step { busyState v1 with schedule := [.reset] } = .next t ∧ t.status.busy = false) ∧
    ((hostState busyStatus (.wr 0x04 0x2)).nextTurn = .host ∧
      ∃ t, step (hostState busyStatus (.wr 0x04 0x2)) = .next t) :=
  ⟨⟨by decide, by decide, exists_next (by decide)⟩,
    ⟨by decide, by decide, by simpa using exists_next (p := fun t => !t.status.busy) (by decide)⟩,
    by simpa using exists_next (p := fun t => !t.status.busy) (by decide), by decide, _, rfl⟩

/-- An acceptance, a W1C write and a completion. -/
theorem witness_DoneIsSetByCompletionOnly :
    (HostWrites (hostState (status 0 false false true false) (.wr 0x00 0x3)) .cmd 0x3 ∧
      (0x3 : Word).extractLsb' 0 2 ≠ 0 ∧
      ∃ t, step (hostState (status 0 false false true false) (.wr 0x00 0x3)) = .next t ∧ (!t.status.done) = true) ∧
    (HostWrites (hostState (status 0 false false true false) (.wr 0x04 0x2)) .status 0x2 ∧ (0x2 : Word).getLsbD 1 = true ∧
      ∃ t, step (hostState (status 0 false false true false) (.wr 0x04 0x2)) = .next t ∧ (!t.status.done) = true) ∧
    ((busyState d1).nextTurn = .engine ∧ (busyState d1).status.busy = true ∧ (busyState d1).latch.op ≠ 0 ∧
      (busyState d1).status.done = false ∧ ∃ t, step (busyState d1) = .next t ∧ t.status.done = true) :=
  ⟨⟨by decide, by decide, exists_next (by decide)⟩, ⟨by decide, by decide, exists_next (by decide)⟩,
    by decide, by decide, by decide, by decide, exists_next (by decide)⟩

/-- An acceptance, a W1C write, and completions of each command with and without an error. -/
theorem witness_ErrAndErrcodeDescribeTheLastCompletion :
    (HostWrites (hostState (status 1 false true true false) (.wr 0x00 0x2)) .cmd 0x2 ∧
      (0x2 : Word).extractLsb' 0 2 ≠ 0 ∧
      ∃ t, step (hostState (status 1 false true true false) (.wr 0x00 0x2)) = .next t ∧ (!t.status.err) = true) ∧
    (HostWrites (hostState (status 5 true true true false) (.wr 0x04 0x4)) .status 0x4 ∧ (0x4 : Word).getLsbD 2 = true ∧
      ∃ t, step (hostState (status 5 true true true false) (.wr 0x04 0x4)) = .next t ∧ (!t.status.err) = true) ∧
    ((busyState v1).nextTurn = .engine ∧ (busyState v1).status.busy = true ∧ (busyState v1).latch.op ≠ 0 ∧
      ∃ t, step (busyState v1) = .next t ∧ (!t.status.err) = true) ∧
    ((busyState { v1 with key := 192 }).latch.op = 1 ∧
      ∃ t, step (busyState { v1 with key := 192 }) = .next t ∧ (t.status.err && t.status.errcode == 4) = true) ∧
    ((busyState d1).latch.op = 2 ∧ ∃ t, step (busyState d1) = .next t ∧ (!t.status.err) = true) ∧
    (∃ t, step (busyState (decodeLatch ⟨0, 0, 0, 0, 0⟩)) = .next t ∧ (t.status.err && t.status.errcode == 5) = true) ∧
    ((busyState { emptyLatch with op := 3 }).status.err = false ∧ (busyState { emptyLatch with op := 3 }).latch.op = 3 ∧
      ∃ t, step (busyState { emptyLatch with op := 3 }) = .next t ∧ t.status.err = true) :=
  ⟨⟨by decide, by decide, exists_next (by decide)⟩, ⟨by decide, by decide, exists_next (by decide)⟩,
    ⟨by decide, by decide, by decide, exists_next (by decide)⟩, ⟨by decide, exists_next (by decide)⟩,
    ⟨by decide, exists_next (by decide)⟩, exists_next (by decide), by decide, by decide, exists_next (by decide)⟩

/-- A dropped command, and a W1C write. -/
theorem witness_OvrIsStickyUntilCleared :
    (HostWrites (hostState busyStatus (.wr 0x00 0x1)) .cmd 0x1 ∧ (0x1 : Word).extractLsb' 0 2 ≠ 0 ∧
      (hostState busyStatus (.wr 0x00 0x1)).status.ovr = false ∧
      ∃ t, step (hostState busyStatus (.wr 0x00 0x1)) = .next t ∧ t.status.ovr = true) ∧
    (HostWrites (hostState (status 0 true false true false) (.wr 0x04 0x8)) .status 0x8 ∧ (0x8 : Word).getLsbD 3 = true ∧
      ∃ t, step (hostState (status 0 true false true false) (.wr 0x04 0x8)) = .next t ∧ (!t.status.ovr) = true) :=
  ⟨⟨by decide, by decide, by decide, exists_next (by decide)⟩, by decide, by decide, exists_next (by decide)⟩

theorem witness_NopChangesNothing :
    HostWrites (hostState busyStatus (.wr 0x00 0xFFFFFFFC)) .cmd 0xFFFFFFFC ∧
    (0xFFFFFFFC : Word).extractLsb' 0 2 = 0 := by decide

theorem witness_ReservedCompletesWithIllegalCommand :
    (0xFFFFFFFF : Word).extractLsb' 0 2 = 3 ∧
    (hostState Status.reset (.wr 0x00 0x3)).turn = some .host ∧
    (hostState Status.reset (.wr 0x00 0x3)).status.busy = false ∧
    (busyState { emptyLatch with op := 3 }).turn = some .engine := by decide

/-! ### The alphabet and the seed -/

theorem witness_CharOfIsADirectIndex : (0 : Nat) ≤ 34 ∧ (34 : Nat) ≤ 34 ∧ (34 : Nat) < 35 := by decide

/-- The first and last positions, an alias only and the separator. -/
theorem witness_PositionOfIsTheFirstCanonicalMatch :
    (sym t0 0 = 0x41 ∧ ∀ j : Fin 32, j < 0 → sym t0 j ≠ 0x41) ∧
    (sym t0 31 = 0x39 ∧ ∀ j : Fin 32, j < 31 → sym t0 j ≠ 0x39) ∧
    (∀ i : Fin 32, sym t0 i ≠ 0x49) ∧ ∀ i : Fin 32, sym t0 i ≠ SEP := by decide

theorem witness_CanonIsTheIdentityOnCanonicalPositions : t0.AlphabetOk ∧ (31 : Fin 35).val < 32 := by decide

theorem witness_SeedSequenceFromItsRow :
    t0.SeedOk ∧ (0 : Idx) ≠ 4 ∧ (0 : Idx) ≠ 9 ∧ (0 : Idx) ≠ 14 ∧ (18 : Idx) ≠ 14 := by decide

/-! ### The embedder and the checksum -/

/-- `r` = 34 and `r` = 35. -/
theorem witness_EmbedMergesUnderTheMask :
    34 = (((255 - (0x1F : Byte).toNat) &&& positionOf t0 0x39 &&& 0x1F) ||| (34 : Byte).toNat) ∧
    35 = (((255 - (0x1F : Byte).toNat) &&& positionOf t0 0x39 &&& 0x1F) ||| (35 : Byte).toNat) := by decide

/-- V1 embeds everywhere; a material id of 35 has no character. -/
theorem witness_EmbedAllFollowsTheLayout :
    (∃ e, embedAll t0 (fun _ => 0x39) v1 = .ok e) ∧
    (∀ i ∈ fieldIdx, ∃ ch, embed t0 0x39 (rawValue v1 i) (fieldMask t0 i) = .ok ch) ∧
    ∃ i ∈ fieldIdx, embed t0 0x39 (rawValue { v1 with material := 0x08070623 } i) (fieldMask t0 i) =
      .error .fieldRange :=
  ⟨exists_ok (by decide),
    fun i hi => exists_ok ((by decide : ∀ i ∈ fieldIdx, isOk (embed t0 0x39 (rawValue v1 i) (fieldMask t0 i)) = true) i hi),
    5, by decide, by rfl⟩

/-! ### The shift engine and the serial normalizer -/

theorem witness_ChecksumWriteStoresTheTwoNibbles :
    ∃ chars, forwardShift t0 31 (fun _ => 0x41) = .ok chars := exists_ok (by decide)

theorem witness_ReduceOverflowsFrom192 : (191 : Nat) < 192 ∧ (192 : Nat) ≤ 192 := by decide

theorem witness_ShiftIsAdditionModulo32 : (31 : Nat) ≤ 31 := by decide

theorem witness_UnshiftUndoesShift : (0 : Nat) ≤ 31 := by decide

theorem witness_ForwardShiftMovesTheShiftableIndices :
    (18 : Idx) ∈ ([0, 1, 2, 3, 5, 6, 10, 11, 12, 13, 15, 16, 18] : List Idx) ∧
    (17 : Idx) ∈ ([4, 7, 8, 9, 14, 17] : List Idx) := by decide

theorem witness_InverseShiftRecoversTheRawArray :
    (0 : Idx) ∈ ([0, 1, 2, 3, 5, 6, 10, 11, 12, 13, 15, 16, 18] : List Idx) ∧
    (17 : Idx) ∈ ([7, 8, 17] : List Idx) ∧ t0.InRange ∧
    ∀ i : Idx, i ≠ 4 → i ≠ 9 → i ≠ 14 → (fun _ => 0 : Idx → Nat) i = (fun j => if j = 14 then 1 else 0 : Idx → Nat) i := by
  decide

/-- The serials 1000, 0305, 0010, 0007 and 0000 of 95_test_vectors.md §3.6. -/
theorem witness_SerialNormalizerSumsSignificantDigits :
    (⟨1, 0, 0, 0⟩ : Digits).d1 ≠ 0 ∧ ((⟨0, 3, 0, 5⟩ : Digits).d1 = 0 ∧ (⟨0, 3, 0, 5⟩ : Digits).d2 ≠ 0) ∧
    ((⟨0, 0, 1, 0⟩ : Digits).d2 = 0 ∧ (⟨0, 0, 1, 0⟩ : Digits).d3 ≠ 0) ∧
    ((⟨0, 0, 0, 7⟩ : Digits).d3 = 0 ∧ (⟨0, 0, 0, 7⟩ : Digits).d4 ≠ 0) ∧ (⟨0, 0, 0, 0⟩ : Digits).d4 = 0 := by decide

theorem witness_ShiftBaseSumOddCorrectionAndKey :
    v1.key = 0 ∧ serialNumber v1Digits % 2 = 0 ∧ serialNumber ⟨0, 0, 4, 7⟩ % 2 = 1 ∧ (1 : Word) ≠ 0 := by decide

/-! ### ENCODE -/

theorem v1_inputs_ok : EncodeInputsOk t0 v1 v1Digits ⟨1, by decide⟩ :=
  ⟨by decide, by decide, by decide, by decide⟩

/-- V1, and E7's key of 191; E1 for the error clause. -/
theorem witness_EncodeWritesTheCode :
    ((busyState v1).turn = some .engine ∧ (busyState v1).cfg.SeedOk ∧
      EncodeInputsOk t0 v1 v1Digits ⟨1, by decide⟩ ∧ shiftBaseSum t0 3 ⟨1, by decide⟩ v1Digits 0 < 192 ∧
      shiftBaseSum t0 3 ⟨1, by decide⟩ v1Digits 191 < 192) ∧
    ∃ t, exec (.encode 0) (busyState { v1 with fields := 0x02010201 }) = .next t ∧ t.status.err = true :=
  ⟨⟨by decide, by decide, v1_inputs_ok, by decide, by decide⟩, exists_next (by decide)⟩

/-- E1, E2, E3, an embedded position of 35, and E4. -/
theorem witness_EncodeErrorsInOrder :
    (lane ({ v1 with fields := 0x02010201 } : Latch).fields 3).toNat ≠ t0.ctConfigId ∧
    ((lane ({ v1 with serial := 0x0A030201 } : Latch).fields 3).toNat = t0.ctConfigId ∧
      ∃ k < 4, 9 < (lane ({ v1 with serial := 0x0A030201 } : Latch).serial k).toNat) ∧
    t0.hmCount ≤ (lane ({ v1 with fields := 0x03010204 } : Latch).fields 0).toNat ∧
    (SerialIs { v1 with material := 0x08070623 } v1Digits ∧
      ∃ i ∈ fieldIdx, 34 < (embeddedPosition t0 v1Digits.d4 { v1 with material := 0x08070623 } i).toNat) ∧
    (EncodeInputsOk t0 { v1 with key := 192 } v1Digits ⟨1, by decide⟩ ∧
      192 ≤ shiftBaseSum t0 3 ⟨1, by decide⟩ v1Digits 192) :=
  ⟨by decide, by decide, by decide, by decide, ⟨by decide, by decide, by decide, by decide⟩, by decide⟩

/-- The keys 9 and 41 of V3 and V4. -/
theorem witness_KeysWithOneShiftBaseGiveOneCode :
    t0.AlphabetOk ∧ (9 : Word) ≠ 0 ∧ (41 : Word) ≠ 0 ∧ (∃ r, encodeFields t0 { v1 with key := 9 } = .ok r) ∧
    ∃ r, encodeFields t0 { v1 with key := 41 } = .ok r :=
  ⟨by decide, by decide, by decide, exists_ok (by decide), exists_ok (by decide)⟩

theorem witness_EncodeWritesCanonicalCharactersOnly : ∃ r, encodeFields t0 v1 = .ok r := exists_ok (by decide)

/-- A seed that differs in row 4 under the full mask of index 0, and in row 0 in every bit of index 1. -/
def otherSeed : Vector (Vector Nat 19) 10 :=
  (t0Seed.set 0 (t0Seed[0].set 1 (31 - t0Seed[0][1]))).set 4 (t0Seed[4].set 0 ((t0Seed[4][0] + 1) % 32))

theorem witness_OnlyUnmaskedSeedBitsReachTheCode :
    t0.SeedOk ∧ { t0 with seed := otherSeed }.SeedOk ∧
    ∀ (d4 : Fin 10) (i : Idx), (lane v1.serial 3).toNat = d4 → i ∈ ([1, 2, 3, 13, 15] : List Idx) →
      BitVec.ofNat 8 (canonAt t0 t0.seed[d4][i]) &&& (0x1F &&& ~~~fieldMask t0 i) =
        BitVec.ofNat 8 (canonAt t0 otherSeed[d4][i]) &&& (0x1F &&& ~~~fieldMask t0 i) := by decide

/-! ### DECODE -/

/-- D1; M5 for the error clause. -/
theorem witness_DecodeWritesTheRecord :
    ((busyState d1).turn = some .engine ∧
      (fieldIdx.map (inverseShift t0 (codeOf d1).char)).sum =
        16 * inverseShift t0 (codeOf d1).char 7 + inverseShift t0 (codeOf d1).char 8 ∧
      inverseShift t0 (codeOf d1).char t0.ctCheckIndex &&& t0.ctCheckMask.toNat ∈ t0.ctKnown) ∧
    ∃ t, exec (.decode 0) (busyState (decodeLatch ⟨0, 0, 0, 0, 0⟩)) = .next t ∧ t.status.err = true :=
  ⟨by decide, exists_next (by decide)⟩

/-- M8 and M5. -/
theorem witness_DecodeErrorsInOrder :
    (fieldIdx.map (inverseShift t0 fun _ => 0)).sum ≠
      16 * inverseShift t0 (fun _ => 0) 7 + inverseShift t0 (fun _ => 0) 8 ∧
    ∃ code, code = (⟨0x4743344A, 0x4852512D, 0x544E2D42, 0x372D534E, 0x4A4557⟩ : CodeRegs).char ∧
      (fieldIdx.map (inverseShift t0 code)).sum = 16 * inverseShift t0 code 7 + inverseShift t0 code 8 ∧
      inverseShift t0 code t0.ctCheckIndex &&& t0.ctCheckMask.toNat ∉ t0.ctKnown :=
  ⟨by decide, _, rfl, by decide, by decide⟩

theorem witness_UnknownBytesDecodeAsPosition31 :
    t0.AlphabetOk ∧ (0x61 : Byte) ∉ t0.canonical ∧ decodeCode t0 (fun _ => 0) = .error .checksumMismatch :=
  ⟨by decide, by decide, by rfl⟩

/-- V1's code, and D12's with another byte at the separator index 4. -/
theorem witness_SeparatorsAreWrittenAndNotRead :
    (∃ r, encodeFields t0 v1 = .ok r) ∧
    ∀ i : Idx, i ≠ 4 → i ≠ 9 → i ≠ 14 → v1Code.char i = { v1Code with code1 := 0x48525158 }.char i :=
  ⟨exists_ok (by decide), by decide⟩

/-! ### ENCODE and DECODE together -/

/-- V1 and D1. -/
theorem witness_DecodeReturnsWhatEncodeWrote :
    t0.WF ∧ t0.ctCheckIndex = 15 ∧ t0.ctCheckMask = 0x03 ∧ WithinMasks t0 v1 ∧
    (∃ t, exec (.encode 0) (busyState v1) = .next t ∧
      (!t.status.err && decide (t.eInfo.sum.toNat ≤ 255) && t.code == codeOf d1) = true) ∧
    (busyState d1).turn = some .engine ∧ (busyState d1).cfg = t0 :=
  ⟨by decide, by decide, by decide, by decide, exists_next (by decide), by decide, rfl⟩

/-- E9 and M6. -/
theorem witness_CodesWithLargeSumsNeverVerify :
    t0.WF ∧
    (∃ t, exec (.encode 0) (busyState e9) = .next t ∧
      (!t.status.err && decide (256 ≤ t.eInfo.sum.toNat) &&
        t.code == (⟨0x4A4D3657, 0x41344E2D, 0x504B2D46, 0x412D5559, 0x4D4A52⟩ : CodeRegs)) = true) ∧
    (busyState (decodeLatch ⟨0x4A4D3657, 0x41344E2D, 0x504B2D46, 0x412D5559, 0x4D4A52⟩)).turn = some .engine :=
  ⟨by decide, exists_next (by decide), by decide⟩

/-- M1: index 0 changed to 'K'; M2 and M3: the bytes 'a' and '9' have one position. -/
theorem witness_OneChangedCharacterIsDetected :
    (0 : Idx) ∈ fieldIdx ∧
    (∀ j : Idx, j ≠ 0 → { v1Code with code0 := 0x4743344B }.char j = v1Code.char j) ∧
    positionOf t0 0x4B ≠ positionOf t0 (v1Code.char 0) ∧ (∃ r, decodeCode t0 v1Code.char = .ok r) ∧
    positionOf t0 0x61 = positionOf t0 0x39 :=
  ⟨by decide, by decide, by decide, exists_ok (by decide), by decide⟩

/-! ### Errors, the latch, hazards and reset -/

theorem witness_ErrorsWriteNoOutput :
    (busyState { v1 with key := 192 }).turn = some .engine ∧ (Instr.encode 0).op ≠ 0 ∧
    (∃ t, exec (.encode 0) (busyState { v1 with key := 192 }) = .next t ∧ t.status.err = true) ∧
    (0x33 : Offset) &&& 0xFC ≠ Reg.status.offset ∧ (0x08 : Offset) &&& 0xFC ≠ Reg.status.offset :=
  ⟨by decide, by decide, exists_next (by decide), by decide, by decide⟩

/-- ENCODE of the reset registers: CT = 0 is no configuration code type. -/
theorem witness_ErrorsArePrecise :
    ∃ a, exec (.encode 0) (hostState Status.reset (.wr 0x00 0x1)) = .next a ∧
      ∃ u, exec (.encode 0) { a with schedule := [.engine] } = .next u ∧ u.status.err = true :=
  ⟨_, rfl, exists_next (by decide)⟩

/-- A CODE write during an ENCODE that succeeds and during one that fails. -/
theorem witness_InputWritesWhileBusyDoNotAffectTheCommand :
    Reg.code4 ∈ rwRegisters ∧ (busyState v1).turn = some .engine ∧ (busyState v1).status.busy = true ∧
    (Instr.encode 0).op = (busyState v1).latch.op ∧
    (∃ t, exec (.encode 0) (busyState v1) = .next t ∧ (!t.status.err) = true) ∧
    ∃ t, exec (.encode 0) (busyState { v1 with key := 192 }) = .next t ∧ t.status.err = true :=
  ⟨by decide, by decide, by decide, by decide, exists_next (by decide), exists_next (by decide)⟩

/-- A fault, an acceptance and a NOP of an idle block. -/
theorem witness_LatchIsNotReadWhileIdle :
    (hostState Status.reset (.wr 0x00 0x1)).status.busy = false ∧
    step (hostState Status.reset (.access (.read 0x01 32))) = .fault (.busFault 0x01) ∧
    (∃ t, step (hostState Status.reset (.wr 0x00 0x1)) = .next t) ∧
    ∃ t, step (hostState Status.reset (.wr 0x00 0x0)) = .next t :=
  ⟨by decide, exists_fault (by decide), ⟨_, rfl⟩, _, rfl⟩

/-- The first reset, and a reset while a command is in flight. -/
theorem witness_ResetClearsEveryRegister :
    (∃ c : Cfg, State.reset = State.resetWith c) ∧ { busyState v1 with schedule := [.reset] }.nextTurn = .reset ∧
    ∃ t, step { busyState v1 with schedule := [.reset] } = .next t :=
  ⟨⟨_, rfl⟩, by decide, _, rfl⟩

/-- A host write to CODE4. -/
theorem witness_OutputsChangeOnlyAtCompletionOrReset :
    (∃ t, step (hostState busyStatus (.wr 0x30 0x00000001)) = .next t ∧ (t.code != idle.code) = true) ∧
    (hostState busyStatus (.wr 0x30 0x00000001)).nextTurn ≠ .engine ∧
    (hostState busyStatus (.wr 0x30 0x00000001)).nextTurn ≠ .reset :=
  ⟨exists_next (by decide), by decide, by decide⟩

/-- No poll, and two polls, before the completion. -/
theorem witness_WaitEndsAfterTheCompletion :
    ∀ n ∈ [0, 2], ∃ s : State, s.status.busy = true ∧ s.latch.op ≠ 0 ∧ s.program = [.wait] ∧
      s.schedule = List.replicate n .host ++ .engine :: .host :: [] :=
  fun n _ => ⟨{ busyState v1 with program := [.wait], schedule := List.replicate n .host ++ [.engine, .host] },
    rfl, show (1 : BitVec 2) ≠ 0 by decide, rfl, rfl⟩

/-- A state that a schedule with no turn of the engine leads to: past its end, the completion step is next. -/
theorem witness_EveryRunIsWeaklyFairToTheEngine :
    Reachable (hostState busyStatus .wait) { hostState busyStatus .wait with
      schedule := [], observed := [{ off := 0x04, value := 0x1, expected := none }] } ∧
    { hostState busyStatus .wait with schedule := [] }.status.busy = true ∧
    { hostState busyStatus .wait with schedule := [] }.nextTurn = .engine :=
  ⟨⟨1, rfl⟩, by decide, by decide⟩

/-- No turn scheduled, and polls and a reset only. -/
theorem witness_EveryWaitEnds :
    ∀ turns ∈ ([[], [.host, .host], [.host, .reset]] : List (List Turn)), ∃ s : State, s.status.busy = true ∧
      s.latch.op ≠ 0 ∧ s.program = [.wait] ∧ s.schedule = turns :=
  fun turns _ => ⟨{ busyState v1 with program := [.wait], schedule := turns }, rfl, show (1 : BitVec 2) ≠ 0 by decide,
    rfl, rfl⟩

theorem witness_StatusClearsAtOnceAndIsSetAgain :
    HostWrites (hostState busyStatus (.wr 0x04 0xE)) .status 0xE ∧ (0xE : Word).getLsbD 2 = true ∧
    (busyState { emptyLatch with op := 3 }).nextTurn = .engine ∧
    (busyState { emptyLatch with op := 3 }).status.busy = true ∧
    (busyState { emptyLatch with op := 3 }).latch.op ≠ 0 ∧ (busyState { emptyLatch with op := 3 }).latch.op = 3 := by
  decide

theorem witness_LdcodeLoadsTheCode :
    ∃ (s : State) (ch : Vector Byte 19), s.program = (HostLine.ldcode ch).expand ++ [] ∧
      s.schedule = List.replicate 5 .host ++ [] :=
  ⟨{ idle with program := (HostLine.ldcode (Vector.replicate 19 0x41)).expand ++ [], schedule := List.replicate 5 .host ++ [] },
    Vector.replicate 19 0x41, rfl, rfl⟩

/-- A poll while busy and one while idle. -/
theorem witness_HostNotationExpandsToAccesses :
    (hostState busyStatus .wait).nextTurn = .host ∧ (hostState busyStatus .wait).program = [.wait] ∧
    (hostState busyStatus .wait).status.busy = true ∧ (hostState Status.reset .wait).program = [.wait] ∧
    (hostState Status.reset .wait).status.busy = false := by decide

/-! ### The invariant -/

theorem witness_StepKeepsTheInvariant :
    MachineInvariant (busyState v1) ∧ ∃ t, step (busyState v1) = .next t ∧ t.status.done = true :=
  ⟨by decide, exists_next (by decide)⟩

end Sys2Proof.Tests
end

/-! ## Bits of a word -/

namespace Sys2Proof.Machine

/-- A slice of a word, from its bits. -/
theorem extractLsb'_eq_of_getLsbD {w : Word} {k n : Nat} {x : BitVec n}
    (h : ∀ i < n, w.getLsbD (k + i) = x.getLsbD i) : w.extractLsb' k n = x := by
  apply BitVec.eq_of_getLsbD_eq
  intro i hi
  simp [hi, h i hi]

/-- A slice of one bit. -/
theorem extractLsb'_one (w : Word) (k : Nat) : w.extractLsb' k 1 = BitVec.ofBool (w.getLsbD k) :=
  extractLsb'_eq_of_getLsbD fun i hi => by
    obtain rfl : i = 0 := by omega
    simp

/-- Words with a slice in common have its bits in common. -/
theorem getLsbD_eq_of_extractLsb'_eq {v v' : Word} {k n : Nat} (h : v.extractLsb' k n = v'.extractLsb' k n)
    {i : Nat} (hk : k ≤ i) (hn : i < k + n) : v.getLsbD i = v'.getLsbD i := by
  have bit (w : Word) : (w.extractLsb' k n).getLsbD (i - k) = w.getLsbD i := by
    simp [show i - k < n by omega, show k + (i - k) = i by omega]
  rw [← bit v, h, bit v']

/-- The bits that a widening adds are 0. -/
theorem extractLsb'_setWidth_eq_zero {m k : Nat} (x : BitVec m) (n : Nat) (h : m ≤ k) :
    (x.setWidth 32).extractLsb' k n = 0 :=
  extractLsb'_eq_of_getLsbD fun i _ => by
    simp [BitVec.getLsbD_setWidth, BitVec.getLsbD_of_ge x (k + i) (by omega)]

/-- A word cut to its low `n` bits and widened again is the word under a mask. -/
theorem setWidth_setWidth_eq_and {n : Nat} (v : Word) (h : n ≤ 32) :
    (v.setWidth n).setWidth 32 = v &&& BitVec.ofNat 32 (2 ^ n - 1) := by
  apply BitVec.eq_of_toNat_eq
  have hn : 2 ^ n ≤ 2 ^ 32 := Nat.pow_le_pow_right (by decide) h
  have hpos : 0 < 2 ^ n := Nat.two_pow_pos n
  have hmod : v.toNat % 2 ^ n < 2 ^ n := Nat.mod_lt _ hpos
  rw [BitVec.toNat_setWidth, BitVec.toNat_setWidth, BitVec.toNat_and, BitVec.toNat_ofNat,
    Nat.mod_eq_of_lt (by omega : 2 ^ n - 1 < 2 ^ 32), Nat.mod_eq_of_lt (by omega : v.toNat % 2 ^ n < 2 ^ 32),
    Nat.and_two_pow_sub_one_eq_mod]

/-- Byte lane 0 is the low byte. -/
theorem lane_zero (v : Word) : lane v 0 = v.setWidth 8 := (BitVec.setWidth_eq_extractLsb' (by decide)).symm

/-! ### STATUS (10_state.md R24) -/

@[simp] theorem statusWord_busy (st : Status) : st.word.extractLsb' 0 1 = BitVec.ofBool st.busy := by
  simp only [extractLsb'_one, getLsbD_statusWord]
  rfl

@[simp] theorem statusWord_done (st : Status) : st.word.extractLsb' 1 1 = BitVec.ofBool st.done := by
  simp only [extractLsb'_one, getLsbD_statusWord]
  rfl

@[simp] theorem statusWord_err (st : Status) : st.word.extractLsb' 2 1 = BitVec.ofBool st.err := by
  simp only [extractLsb'_one, getLsbD_statusWord]
  rfl

@[simp] theorem statusWord_ovr (st : Status) : st.word.extractLsb' 3 1 = BitVec.ofBool st.ovr := by
  simp only [extractLsb'_one, getLsbD_statusWord]
  rfl

@[simp] theorem statusWord_reserved_4 (st : Status) : st.word.extractLsb' 4 4 = 0 :=
  extractLsb'_eq_of_getLsbD fun i hi => by
    simp [getLsbD_statusWord, show 4 + i ≠ 1 by omega, show 4 + i ≠ 2 by omega, show 4 + i ≠ 3 by omega,
      show 4 + i < 8 by omega]

@[simp] theorem statusWord_errcode (st : Status) : st.word.extractLsb' 8 4 = st.errcode :=
  extractLsb'_eq_of_getLsbD fun i hi => by
    simp [getLsbD_statusWord, show 8 + i ≠ 1 by omega, show 8 + i ≠ 2 by omega, show 8 + i ≠ 3 by omega,
      show 8 + i < 12 by omega]

@[simp] theorem statusWord_reserved_12 (st : Status) : st.word.extractLsb' 12 20 = 0 :=
  extractLsb'_eq_of_getLsbD fun i _ => by
    simp [getLsbD_statusWord, show 12 + i ≠ 1 by omega, show 12 + i ≠ 2 by omega, show 12 + i ≠ 3 by omega,
      show ¬ 12 + i < 8 by omega]

/-- A write to STATUS reads bits 1, 2 and 3 of its data only. -/
theorem writeOneToClear_congr (st : Status) {v v' : Word} (h : v.extractLsb' 1 3 = v'.extractLsb' 1 3) :
    st.writeOneToClear v = st.writeOneToClear v' := by
  have bit {i : Nat} (hk : 1 ≤ i) (hn : i < 1 + 3) := getLsbD_eq_of_extractLsb'_eq h hk hn
  simp only [Status.writeOneToClear, bit (i := 1) (by decide) (by decide), bit (i := 2) (by decide) (by decide),
    bit (i := 3) (by decide) (by decide)]

/-! ### Reserved bits of the packed output registers (10_state.md R39, R41) -/

theorem word4_zero_high (b1 b0 : Byte) : (word4 0 0 b1 b0).extractLsb' 16 16 = 0 :=
  extractLsb'_eq_of_getLsbD fun i _ => by
    simp [getLsbD_word4, show ¬ 16 + i < 8 by omega]

theorem eInfoWord_reserved (sum : Half) (base : Byte) : (sum ++ 0#8 ++ base : Word).extractLsb' 8 8 = 0 :=
  calc (sum ++ 0#8 ++ base : Word).extractLsb' 8 8
    _ = (sum ++ 0#8).extractLsb' 0 8 := BitVec.extractLsb'_append_eq_of_le (xhi := sum ++ 0#8) (by decide)
    _ = 0 := BitVec.extractLsb'_append_eq_right

/-! ## The register window -/

/-! ### Offsets -/

/-- An offset of no register is reserved (10_state.md R42). -/
theorem Reg.ofOffset_eq_none {off : Offset} (h : ∀ r : Reg, off ≠ r.offset) : Reg.ofOffset off = none := by
  cases hr : Reg.ofOffset off with
  | none => rfl
  | some r => exact absurd (Reg.offset_of_ofOffset hr) (h r)

/-- A reserved offset reads 0. -/
theorem busRead_of_none {off : Offset} (h : Reg.ofOffset off = none) (s : State) : busRead off s = 0 := by
  simp [busRead, h]

/-- A reserved offset ignores writes. -/
theorem busWrite_of_none {off : Offset} (h : Reg.ofOffset off = none) (v : Word) (s : State) :
    busWrite off v s = .next s := by
  simp [busWrite, h]

/-- A write to CMD issues the command of its word (10_state.md R23). -/
theorem busWrite_cmd (v : Word) (s : State) : busWrite Reg.cmd.offset v s = exec (decodeWord v) s := by
  simp [busWrite]

/-- A write to any other register is `writeReg`. -/
theorem busWrite_offset {r : Reg} (h : r ≠ .cmd) (v : Word) (s : State) :
    busWrite r.offset v s = .next (writeReg r v s) := by
  simp only [busWrite, Reg.ofOffset_offset]

/-! ### Reads after writes -/

/-- A write to one register does not change what another one reads. -/
theorem readReg_writeReg_of_ne {q r : Reg} (h : q ≠ r) (v : Word) (s : State) :
    readReg q (writeReg r v s) = readReg q s := by
  cases q <;>
    simp [readReg, writeReg_status, writeReg_serial, writeReg_fields, writeReg_material, writeReg_version, writeReg_key,
      writeReg_code, h.symm]

/-- An RW register reads back what was written, less its reserved bits. -/
theorem readReg_writeReg_same {r : Reg} (h : r ∈ rwRegisters) (v : Word) (s : State) :
    readReg r (writeReg r v s) = writtenBits r v := by
  have hversion : (lane v 0).setWidth 32 = v &&& 0x000000FF := by
    rw [lane_zero]
    exact setWidth_setWidth_eq_and v (by decide)
  have hcode4 : (v.setWidth 24).setWidth 32 = v &&& 0x00FFFFFF := setWidth_setWidth_eq_and v (by decide)
  simp only [rwRegisters, List.mem_cons, List.not_mem_nil, or_false] at h
  rcases h with rfl | rfl | rfl | rfl | rfl | rfl | rfl | rfl | rfl | rfl
  exacts [rfl, rfl, rfl, hversion, rfl, rfl, rfl, rfl, rfl, hcode4]

/-- A write to one register does not change what another offset reads. -/
theorem busRead_writeReg_of_ne {r : Reg} {off : Offset} (h : off ≠ r.offset) (v : Word) (s : State) :
    busRead off (writeReg r v s) = busRead off s := by
  cases hq : Reg.ofOffset off with
  | none => rw [busRead_of_none hq, busRead_of_none hq]
  | some q =>
    obtain rfl := Reg.offset_of_ofOffset hq
    rw [busRead_offset, busRead_offset, readReg_writeReg_of_ne fun hqr => h (congrArg Reg.offset hqr)]

/-- Every register reads 0 after reset (70_reset_and_hazards.md R300). -/
theorem readReg_resetWith (r : Reg) (c : Cfg) : readReg r (State.resetWith c) = 0 := by
  cases r with
  | status => exact (by decide : Status.reset.word = 0)
  | dVersion => exact (by decide : word4 0 0 0 0 = 0)
  | dCheck => exact (by decide : (0#16 ++ 0#8 ++ 0#8 : Word) = 0)
  | eInfo => exact (by decide : (0#16 ++ 0#8 ++ 0#8 : Word) = 0)
  | version => exact (by decide : (0#8).setWidth 32 = (0 : Word))
  | code4 => exact (by decide : (0#24).setWidth 32 = (0 : Word))
  | _ => rfl

/-- The whole window reads 0 after reset. -/
theorem busRead_resetWith (off : Offset) (c : Cfg) : busRead off (State.resetWith c) = 0 := by
  cases h : Reg.ofOffset off with
  | none => exact busRead_of_none h _
  | some r => rw [Reg.offset_of_ofOffset h, busRead_offset, readReg_resetWith]

/-! ### Commands by their OP -/

/-- OP of a command word is its bits 1:0 (30_encoding.md R80). -/
@[simp] theorem decodeWord_op (w : Word) : (decodeWord w).op = w.extractLsb' 0 2 := decodeOp_op _ _

/-- The ignored bits 31:2 of a command have no effect (30_encoding.md R80). -/
theorem exec_eq_exec_op (i : Instr) (s : State) : exec i s = exec (decodeOp i.op 0) s := by cases i <;> rfl

/-- What a command does is chosen by its OP alone. -/
theorem exec_congr_op {i j : Instr} (h : i.op = j.op) (s : State) : exec i s = exec j s := by
  rw [exec_eq_exec_op i, h, ← exec_eq_exec_op j]

end Sys2Proof.Machine

/-! ## The register window: the obligations -/

namespace Sys2Proof.Machine

/-- A host read of an aligned offset notes the value read and changes nothing else (20_memory.md R65). -/
theorem step_of_read {s : State} {off : Offset} (hturn : s.nextTurn = .host)
    (hop : s.program.head? = some (HostOp.rd off)) (haligned : off.toNat % 4 = 0) :
    step s = .next { s with
      program := s.program.tail, schedule := s.schedule.tail
      observed := { off := off, value := busRead off s, expected := none } :: s.observed } := by
  obtain ⟨rest, hp⟩ := List.head?_eq_some_iff.mp hop
  have hwf : (Access.read off 32).wellFormed = true := by simp [Access.wellFormed, haligned]
  have hread : hostTurn s.scheduled = .next (retire (observe off none s.scheduled)) := by
    simp [hostTurn, hp, HostOp.rd, busAccess, hwf]
  rw [step_of_host hturn, hread]
  simp [retire, observe]

/-- A write to CMD reads bits 1:0 of its data only (10_state.md R23). -/
theorem busWrite_cmd_congr {v v' : Word} (h : v.extractLsb' 0 2 = v'.extractLsb' 0 2) (s : State) :
    busWrite Reg.cmd.offset v s = busWrite Reg.cmd.offset v' s := by
  rw [busWrite_cmd, busWrite_cmd, exec_congr_op (j := decodeWord v') (by simpa using h)]

/-- Settles O4: a command is chosen by the OP of its word, and CMD reads 0. -/
theorem cmdIssuesByItsLowBitsAndReadsZero : Obligations.CmdIssuesByItsLowBitsAndReadsZero := by
  unfold Obligations.CmdIssuesByItsLowBitsAndReadsZero
  refine ⟨fun w s => ⟨busWrite_cmd w s, decodeWord_op w, busRead_offset .cmd s⟩, fun w w' s h =>
    busWrite_cmd_congr h s, fun s hturn hop => ?_⟩
  rw [step_of_read hturn hop (Reg.offset_aligned .cmd), busRead_offset]
  rfl

/-- The offsets that R22 lists are those of the registers. -/
theorem Reg.offset_toNat_mem (r : Reg) :
    r.offset.toNat ∈ [0x00, 0x04, 0x08, 0x0C, 0x10, 0x14, 0x18, 0x20, 0x24, 0x28, 0x2C, 0x30, 0x40, 0x44, 0x48, 0x4C,
      0x50, 0x54] := by
  cases r <;> decide

/-- Settles O8: an unlisted offset names no register, and each reserved field reads 0 and is not read by a write. -/
theorem reservedSpaceReadsZeroAndIgnoresWrites : Obligations.ReservedSpaceReadsZeroAndIgnoresWrites := by
  unfold Obligations.ReservedSpaceReadsZeroAndIgnoresWrites
  refine ⟨fun off hoff s v => ?_, fun s => ⟨?_, ?_, ?_, ?_, ?_, ?_, ?_⟩, fun v v' s => ⟨?_, ?_, ?_, ?_, ?_, ?_⟩⟩
  · have hnone := Reg.ofOffset_eq_none (off := off) fun r hr => hoff (hr ▸ Reg.offset_toNat_mem r)
    exact ⟨busRead_of_none hnone s, busWrite_of_none hnone v s⟩
  · exact BitVec.extractLsb'_zero
  · exact statusWord_reserved_4 s.status
  · exact statusWord_reserved_12 s.status
  · exact extractLsb'_setWidth_eq_zero s.version 24 (by decide)
  · exact extractLsb'_setWidth_eq_zero s.code.code4 8 (by decide)
  · exact word4_zero_high s.dVersion.key s.dVersion.ver
  · exact eInfoWord_reserved s.eInfo.sum s.eInfo.shiftBase
  · exact busWrite_offset (r := .dVersion) (by decide) v s
  · exact busWrite_offset (r := .eInfo) (by decide) v s
  · exact fun h => busWrite_cmd_congr h s
  · intro h
    exact congrArg (fun st => Host.Outcome.next { s with status := st }) (writeOneToClear_congr s.status h)
  · intro h
    exact congrArg (fun b => Host.Outcome.next { s with version := b }) h
  · intro h
    have hcode4 : v.setWidth 24 = v'.setWidth 24 := by
      rw [BitVec.setWidth_eq_extractLsb' (by decide), h, BitVec.setWidth_eq_extractLsb' (by decide)]
    exact congrArg (fun b => Host.Outcome.next { s with code := { s.code with code4 := b } }) hcode4

/-- An RW register is not CMD. -/
theorem ne_cmd_of_mem_rwRegisters {r : Reg} (h : r ∈ rwRegisters) : r ≠ .cmd := by
  rintro rfl
  exact absurd h (by decide)

/-- A write to a read-only register changes nothing. -/
theorem busWrite_of_mem_roRegisters {r : Reg} (h : r ∈ roRegisters) (v : Word) (s : State) :
    busWrite r.offset v s = .next s := by
  simp only [roRegisters, List.mem_cons, List.not_mem_nil, or_false] at h
  rcases h with rfl | rfl | rfl | rfl | rfl | rfl <;> exact busWrite_offset (by decide) v s

/-- Settles O9: a write is `writeReg`, which the register alone reads back. -/
theorem registerMapReadsAndWrites : Obligations.RegisterMapReadsAndWrites := by
  unfold Obligations.RegisterMapReadsAndWrites
  refine ⟨rfl, fun c off => ⟨rfl, off.isLt⟩, fun off h => Reg.ofOffset_eq_none h, fun v s =>
    ⟨busRead_offset .cmd s, busWrite_offset (r := .status) (by decide) v s⟩, fun r hr v s => ?_,
    fun r hr v s => busWrite_of_mem_roRegisters hr v s, fun c off => busRead_resetWith off c,
    fun op s => codeOf_latchOf s op, fun r s => char_ofChars r.chars⟩
  refine ⟨writeReg r v s, busWrite_offset (ne_cmd_of_mem_rwRegisters hr) v s, ?_,
    fun off hoff => busRead_writeReg_of_ne hoff v s, writeReg_latch r v s, writeReg_cfg r v s, writeReg_program r v s,
    writeReg_observed r v s, writeReg_schedule r v s, writeReg_resets r v s⟩
  rw [busRead_offset, readReg_writeReg_same hr]

/-- Settles O10: the bits of the STATUS word, and the two cases of each write-one-to-clear bit. -/
theorem statusFieldsAndWriteOneToClear : Obligations.StatusFieldsAndWriteOneToClear := by
  unfold Obligations.StatusFieldsAndWriteOneToClear
  refine ⟨fun s => ?_, fun v s => ?_, fun c => rfl⟩
  · have hread : busRead 0x04 s = s.status.word := busRead_offset .status s
    rw [hread]
    simp
  · refine ⟨writeReg .status v s, busWrite_offset (r := .status) (by decide) v s, rfl, ?_⟩
    simp +contextual [writeReg_status, Status.writeOneToClear]

end Sys2Proof.Machine

/-! ## The life of STATUS: what a step does to it -/

namespace Sys2Proof.Machine

/-! ### A command at its two turns -/

/-- NOP changes nothing at any turn (46_commands.md R232). -/
theorem exec_of_op_zero {i : Instr} (h : i.op = 0) (s : State) : exec i s = .next s := by
  rcases exec_cases i s with ⟨_, h'⟩ | ⟨hne, _, _⟩ | ⟨hne, _, _⟩
  · exact h'
  · exact absurd h hne
  · exact absurd h hne

/-- At the host's turn a command is issued (46_commands.md R230). -/
theorem exec_of_host {i : Instr} {s : State} (hop : i.op ≠ 0) (hturn : s.turn = some .host) :
    exec i s = .next (issue i.op s) := by
  rcases exec_cases i s with ⟨h0, _⟩ | ⟨_, hengine, _⟩ | ⟨_, _, h'⟩
  · exact absurd h0 hop
  · exact absurd (hturn.symm.trans hengine) (by decide)
  · exact h'

/-- At the engine's turn a command completes (46_commands.md R230). -/
theorem exec_of_engine {i : Instr} {s : State} (hop : i.op ≠ 0) (hturn : s.turn = some .engine) :
    exec i s = .next (complete (outputsOf i) s) := by
  rcases exec_cases i s with ⟨h0, _⟩ | ⟨_, _, h'⟩ | ⟨_, hne, _⟩
  · exact absurd h0 hop
  · exact h'
  · exact absurd hturn hne

/-- The rule of a command does not write STATUS. -/
theorem outputsOf_status {i : Instr} {s t : State} (h : outputsOf i s = .ok t) : t.status = s.status := by
  cases i with
  | nop r =>
    cases h
    rfl
  | encode r =>
    obtain ⟨r, -, rfl⟩ := encodeOutputs_eq_ok h
    rfl
  | decode r =>
    obtain ⟨r, -, rfl⟩ := decodeOutputs_eq_ok h
    rfl
  | reserved r => cases h

/-- A completion clears BUSY, sets DONE and leaves OVR, however its rule ends (60_exceptions.md R271). -/
theorem complete_status (i : Instr) (s : State) :
    (complete (outputsOf i) s).status.busy = false ∧ (complete (outputsOf i) s).status.done = true ∧
      (complete (outputsOf i) s).status.ovr = s.status.ovr := by
  cases h : outputsOf i s with
  | ok t => simp [complete_ok h, outputsOf_status h]
  | error e => simp [complete_error h]

/-! ### The steps that can change STATUS -/

/-- A host's write to a register is the bus write of it (20_memory.md R63). -/
theorem step_of_hostWrites {s : State} {r : Reg} {v : Word} (h : HostWrites s r v) :
    step s = mapNext retire (busWrite r.offset v s.scheduled) := by
  obtain ⟨hturn, hop⟩ := h
  obtain ⟨rest, hp⟩ := List.head?_eq_some_iff.mp hop
  rw [step_of_host hturn]
  simp [hostTurn, hp, HostOp.wr, busAccess, Access.wellFormed, Reg.offset_aligned]

/-- A NOP written to CMD only uses up the host's operation and turn (46_commands.md R232). -/
theorem step_of_nop_write {s : State} {w : Word} (h : HostWrites s .cmd w) (hop : w.extractLsb' 0 2 = 0) :
    step s = .next (retire s) := by
  rw [step_of_hostWrites h, busWrite_cmd, exec_of_op_zero (by simpa using hop)]
  rfl

/-- Any other command written to CMD is issued (46_commands.md R230). -/
theorem step_of_command_write {s : State} {w : Word} (h : HostWrites s .cmd w) (hop : w.extractLsb' 0 2 ≠ 0) :
    step s = .next (retire (issue (w.extractLsb' 0 2) s)) := by
  have hturn : s.scheduled.turn = some .host := by simp [h.1]
  rw [step_of_hostWrites h, busWrite_cmd, exec_of_host (by simpa using hop) hturn, decodeWord_op, mapNext_next]
  cases hbusy : s.status.busy <;> simp only [issue, State.scheduled_status, hbusy] <;> rfl

/-- A write to STATUS clears the bits written as 1 (10_state.md R24). -/
theorem step_of_status_write {s : State} {v : Word} (h : HostWrites s .status v) :
    step s = .next (retire { s with status := s.status.writeOneToClear v }) := by
  rw [step_of_hostWrites h, busWrite_offset (by decide)]
  rfl

/-- The engine's turn with a command in flight is its completion (46_commands.md R230). -/
theorem step_of_completion {s : State} (hturn : s.nextTurn = .engine) (hbusy : s.status.busy = true)
    (hop : s.latch.op ≠ 0) :
    step s = .next (endTurn (complete (outputsOf (decodeOp s.latch.op 0)) s.scheduled)) := by
  have hengine : s.scheduled.turn = some .engine := by simp [hturn]
  have hexec := exec_of_engine (i := decodeOp s.latch.op 0) (by simpa using hop) hengine
  rw [step_of_engine hturn]
  simp only [engineTurn, State.scheduled_status, hbusy, if_true, State.scheduled_latch, hexec, mapNext_next]

/-- The engine's turn with no command in flight only uses up the turn. -/
theorem step_of_idle_engine {s : State} (hturn : s.nextTurn = .engine) (hbusy : s.status.busy = false) :
    step s = .next (endTurn s.scheduled) := by
  rw [step_of_engine hturn]
  simp [engineTurn, hbusy]

/-- A step has one answer. -/
theorem eq_of_step {s t u : State} (h : step s = .next t) (h' : step s = .next u) : t = u :=
  Host.Outcome.next.inj (h.symm.trans h')

/-- What a step can do to STATUS and to the latch (10_state.md R25-R29, R43): nothing, or one of the five events that
the rules name. -/
inductive StatusStep (s t : State) : Prop where
  /-- Neither STATUS nor the latch changes. -/
  | kept (hstatus : t.status = s.status) (hlatch : t.latch = s.latch)
  /-- A command written while another is in flight (46_commands.md R231). -/
  | dropped (w : Word) (hw : HostWrites s .cmd w) (hop : w.extractLsb' 0 2 ≠ 0) (hbusy : s.status.busy = true)
      (ht : t = retire (drop s))
  /-- A command written while none is in flight (46_commands.md R230). -/
  | accepted (w : Word) (hw : HostWrites s .cmd w) (hop : w.extractLsb' 0 2 ≠ 0) (hbusy : s.status.busy = false)
      (ht : t = retire (accept (w.extractLsb' 0 2) s))
  /-- A write to STATUS (10_state.md R24). -/
  | cleared (v : Word) (hv : HostWrites s .status v) (ht : t = retire { s with status := s.status.writeOneToClear v })
  /-- The completion of the command in flight (46_commands.md R230). -/
  | completed (hturn : s.nextTurn = .engine) (hbusy : s.status.busy = true) (hop : s.latch.op ≠ 0)
      (ht : t = endTurn (complete (outputsOf (decodeOp s.latch.op 0)) s.scheduled))
  /-- A reset (70_reset_and_hazards.md R300). -/
  | reset (hturn : s.nextTurn = .reset) (hstatus : t.status = Status.reset)

/-- A command written to CMD is dropped or accepted. -/
theorem statusStep_of_command_write {s t : State} {w : Word} (h : step s = .next t) (hw : HostWrites s .cmd w)
    (hop : w.extractLsb' 0 2 ≠ 0) : StatusStep s t := by
  have ht := eq_of_step h (step_of_command_write hw hop)
  rcases issue_cases (w.extractLsb' 0 2) s with ⟨hbusy, hissue⟩ | ⟨hbusy, hissue⟩
  · exact .dropped w hw hop hbusy (hissue ▸ ht)
  · exact .accepted w hw hop hbusy (hissue ▸ ht)

/-- A host's write changes STATUS at CMD and at STATUS only. -/
theorem statusStep_of_write {s t u : State} {off : Offset} {v : Word} (h : step s = .next t)
    (hturn : s.nextTurn = .host) (hp : s.program.head? = some (HostOp.wr off v))
    (hu : busWrite off v s.scheduled = .next u) (ht : t = retire u) : StatusStep s t := by
  rcases busWrite_cases off v s.scheduled with ⟨rfl, _⟩ | ⟨r, _, rfl, hw⟩ | ⟨_, hw⟩
  · by_cases hop : v.extractLsb' 0 2 = 0
    · obtain rfl := eq_of_step h (step_of_nop_write ⟨hturn, hp⟩ hop)
      exact .kept rfl rfl
    · exact statusStep_of_command_write h ⟨hturn, hp⟩ hop
  · by_cases hr : r = .status
    · subst hr
      exact .cleared v ⟨hturn, hp⟩ (eq_of_step h (step_of_status_write ⟨hturn, hp⟩))
    · obtain rfl := Host.Outcome.next.inj (hw.symm.trans hu)
      subst ht
      exact .kept (by simp [writeReg_status, hr]) (by simp)
  · obtain rfl := Host.Outcome.next.inj (hw.symm.trans hu)
    subst ht
    exact .kept rfl rfl

/-- Every step that answers is one of those. -/
theorem statusStep_of_step {s t : State} (h : step s = .next t) : StatusStep s t := by
  rcases step_cases h with ⟨_, _, rfl⟩ | ⟨_, _, _, rfl⟩ | ⟨_, rfl⟩ | ⟨off, v, u, hturn, hp, _, hu, ht⟩ |
    ⟨_, _, rfl⟩ | ⟨u, hturn, hbusy, hu, ht⟩ | ⟨hturn, rfl⟩
  · exact .kept rfl rfl
  · exact .kept rfl rfl
  · exact .kept rfl rfl
  · exact statusStep_of_write h hturn hp hu ht
  · exact .kept rfl rfl
  · by_cases hop : s.latch.op = 0
    · rw [exec_of_op_zero (by simpa using hop)] at hu
      cases hu
      subst ht
      exact .kept rfl rfl
    · exact .completed hturn hbusy hop (eq_of_step h (step_of_completion hturn hbusy hop))
  · exact .reset hturn rfl

end Sys2Proof.Machine

/-! ### The errors of ENCODE and DECODE (60_exceptions.md R270) -/

namespace Sys2Proof.Machine

/-- A rule whose errors, if it raises any, are among these. -/
def RaisesOnly {α : Type} (errors : List ErrCode) (x : Except ErrCode α) : Prop := ∀ e, x = .error e → e ∈ errors

theorem raisesOnly_ok {α : Type} (errors : List ErrCode) (a : α) : RaisesOnly errors (.ok a : Except ErrCode α) :=
  fun _ h => by cases h

theorem raisesOnly_error {α : Type} {errors : List ErrCode} {e : ErrCode} (h : e ∈ errors) :
    RaisesOnly errors (.error e : Except ErrCode α) :=
  fun _ h' => by
    cases h'
    exact h

/-- A sequence of steps raises the errors of its steps. -/
theorem RaisesOnly.bind {α β : Type} {errors : List ErrCode} {x : Except ErrCode α} {f : α → Except ErrCode β}
    (hx : RaisesOnly errors x) (hf : ∀ a, RaisesOnly errors (f a)) : RaisesOnly errors (x >>= f) := by
  cases x with
  | ok a => exact hf a
  | error e => exact raisesOnly_error (hx e rfl)

theorem raisesOnly_fillM {errors : List ErrCode} {is : List Idx} {f : Idx → Except ErrCode Byte} {a : Idx → Byte}
    (h : ∀ i, RaisesOnly errors (f i)) : RaisesOnly errors (fillM is f a) :=
  fun e he => by
    obtain ⟨i, -, hi⟩ := fillM_eq_error he
    exact h i e hi

/-- The errors of ENCODE. -/
def encodeErrors : List ErrCode := [.unimplementedCodeType, .fieldRange, .shiftBaseOverflow]

/-- The errors of DECODE. -/
def decodeErrors : List ErrCode := [.checksumMismatch, .invalidCodeType]

theorem charOf_raisesOnly (c : Cfg) (p : Nat) : RaisesOnly encodeErrors (charOf c p) :=
  fun e he => by
    obtain ⟨rfl, -⟩ := charOf_error he
    decide

theorem configCodeType_raisesOnly (c : Cfg) (l : Latch) : RaisesOnly encodeErrors (configCodeType c l) := by
  unfold configCodeType
  split
  · exact raisesOnly_ok _ _
  · exact raisesOnly_error (by decide)

theorem digit_raisesOnly (b : Byte) : RaisesOnly encodeErrors (digit b) := by
  unfold digit
  split
  · exact raisesOnly_ok _ _
  · exact raisesOnly_error (by decide)

theorem serialDigits_raisesOnly (l : Latch) : RaisesOnly encodeErrors (serialDigits l) :=
  (digit_raisesOnly _).bind fun _ => (digit_raisesOnly _).bind fun _ => (digit_raisesOnly _).bind fun _ =>
    (digit_raisesOnly _).bind fun _ => raisesOnly_ok _ _

theorem hardwareModel_raisesOnly (c : Cfg) (l : Latch) : RaisesOnly encodeErrors (hardwareModel c l) := by
  unfold hardwareModel
  split
  · exact raisesOnly_ok _ _
  · exact raisesOnly_error (by decide)

theorem seedSequence_raisesOnly (c : Cfg) (d4 : Fin 10) : RaisesOnly encodeErrors (seedSequence c d4) :=
  (raisesOnly_fillM fun _ => charOf_raisesOnly c _).bind fun _ => raisesOnly_ok _ _

theorem reduce_raisesOnly (pre : Nat) : RaisesOnly encodeErrors (reduce pre) := by
  unfold reduce
  rcases reduceWithin_cases 5 pre with ⟨b, hb, -⟩ | hb <;> rw [hb]
  · exact raisesOnly_ok _ _
  · exact raisesOnly_error (by decide)

/-- The errors of ENCODE are those of its steps (46_commands.md R234). -/
theorem encodeFields_raisesOnly (c : Cfg) (l : Latch) : RaisesOnly encodeErrors (encodeFields c l) :=
  (configCodeType_raisesOnly c l).bind fun _ =>
  (serialDigits_raisesOnly l).bind fun _ =>
  (hardwareModel_raisesOnly c l).bind fun _ =>
  (seedSequence_raisesOnly c _).bind fun _ =>
  (raisesOnly_fillM fun _ => charOf_raisesOnly c _).bind fun _ =>
  (raisesOnly_fillM fun _ => charOf_raisesOnly c _).bind fun _ =>
  (reduce_raisesOnly _).bind fun _ =>
  (raisesOnly_fillM fun _ => charOf_raisesOnly c _).bind fun _ =>
  (raisesOnly_fillM fun _ => charOf_raisesOnly c _).bind fun _ =>
  raisesOnly_ok _ _

theorem verify_raisesOnly (raw : Idx → Nat) : RaisesOnly decodeErrors (verify raw) := by
  unfold verify
  split
  · exact raisesOnly_error (by decide)
  · exact raisesOnly_ok _ _

theorem validateCodeType_raisesOnly (c : Cfg) (raw : Idx → Nat) : RaisesOnly decodeErrors (validateCodeType c raw) := by
  unfold validateCodeType
  split
  · exact raisesOnly_ok _ _
  · exact raisesOnly_error (by decide)

/-- The errors of DECODE are those of its steps (46_commands.md R250). -/
theorem decodeCode_raisesOnly (c : Cfg) (code : Idx → Byte) : RaisesOnly decodeErrors (decodeCode c code) :=
  (verify_raisesOnly _).bind fun _ => (validateCodeType_raisesOnly c _).bind fun _ => raisesOnly_ok _ _

/-! ### What a completion reports -/

/-- A report of a rule is no error, or the code of one of its errors. -/
theorem errcode_of_reports {α : Type} {st : Status} {x : Except ErrCode α} {errors : List ErrCode}
    (h : Reports st x) (hx : RaisesOnly errors x) :
    (st.err = false ∧ st.errcode = 0) ∨ (st.err = true ∧ st.errcode ∈ errors.map ErrCode.code) := by
  cases x with
  | ok a => exact .inl h
  | error e => exact .inr ⟨h.1, h.2 ▸ List.mem_map_of_mem (hx e rfl)⟩

/-- The completion step reports how the rule of the latched command ended (10_state.md R27). -/
theorem completion_reports {s t : State} (h : step s = .next t) (hturn : s.nextTurn = .engine)
    (hbusy : s.status.busy = true) (hop : s.latch.op ≠ 0) :
    Reports t.status (outputsOf (decodeOp s.latch.op 0) s.scheduled) := by
  obtain rfl := eq_of_step h (step_of_completion hturn hbusy hop)
  exact complete_reports _ _

/-! In the next two lemmas an equation names the result of the codec's rule, so that the elaborator does not evaluate
the rule to see what is reported of it. -/

theorem completion_reports_encode {s t : State} {x : Except ErrCode EncodeResult}
    (hx : encodeFields s.cfg s.latch = x) (h : step s = .next t) (hturn : s.nextTurn = .engine)
    (hbusy : s.status.busy = true) (hop : s.latch.op = 1) : Reports t.status x := by
  have hrule : outputsOf (decodeOp s.latch.op 0) s.scheduled = x >>= fun r => .ok (writeEncodeOutputs r s.scheduled) := by
    rw [hop, ← hx]
    rfl
  have hreport := completion_reports h hturn hbusy (by simp [hop])
  rw [hrule] at hreport
  cases x <;> exact hreport

theorem completion_reports_decode {s t : State} {x : Except ErrCode DecodeResult}
    (hx : decodeCode s.cfg (codeOf s.latch).char = x) (h : step s = .next t) (hturn : s.nextTurn = .engine)
    (hbusy : s.status.busy = true) (hop : s.latch.op = 2) : Reports t.status x := by
  have hrule : outputsOf (decodeOp s.latch.op 0) s.scheduled = x >>= fun r => .ok (writeDecodeOutputs r s.scheduled) := by
    rw [hop, ← hx]
    rfl
  have hreport := completion_reports h hturn hbusy (by simp [hop])
  rw [hrule] at hreport
  cases x <;> exact hreport

theorem completion_reports_reserved {s t : State} (h : step s = .next t) (hturn : s.nextTurn = .engine)
    (hbusy : s.status.busy = true) (hop : s.latch.op = 3) : t.status.err = true ∧ t.status.errcode = 1 := by
  have hreport := completion_reports h hturn hbusy (by simp [hop])
  rw [hop] at hreport
  exact hreport

/-- The error codes of each command (60_exceptions.md R270). -/
theorem completion_errcode {s t : State} (h : step s = .next t) (hturn : s.nextTurn = .engine)
    (hbusy : s.status.busy = true) (hop : s.latch.op ≠ 0) :
    (t.status.err = false ∧ t.status.errcode = 0) ∨
      (t.status.err = true ∧ ((s.latch.op = 1 ∧ t.status.errcode ∈ encodeErrors.map ErrCode.code) ∨
        (s.latch.op = 2 ∧ t.status.errcode ∈ decodeErrors.map ErrCode.code) ∨
        (s.latch.op = 3 ∧ t.status.errcode = 1))) := by
  rcases op_values s.latch.op with h0 | h1 | h2 | h3
  · exact absurd h0 hop
  · generalize hx : encodeFields s.cfg s.latch = x
    have herrors : RaisesOnly encodeErrors x := hx ▸ encodeFields_raisesOnly s.cfg s.latch
    exact (errcode_of_reports (completion_reports_encode hx h hturn hbusy h1) herrors).imp_right
      fun ⟨herr, hcode⟩ => ⟨herr, .inl ⟨h1, hcode⟩⟩
  · generalize hx : decodeCode s.cfg (codeOf s.latch).char = x
    have herrors : RaisesOnly decodeErrors x := hx ▸ decodeCode_raisesOnly s.cfg _
    exact (errcode_of_reports (completion_reports_decode hx h hturn hbusy h2) herrors).imp_right
      fun ⟨herr, hcode⟩ => ⟨herr, .inr (.inl ⟨h2, hcode⟩)⟩
  · obtain ⟨herr, hcode⟩ := completion_reports_reserved h hturn hbusy h3
    exact .inr ⟨herr, .inr (.inr ⟨h3, hcode⟩)⟩

end Sys2Proof.Machine

/-! ## The life of STATUS: the obligations -/

namespace Sys2Proof.Machine

/-- Settles O14: BUSY and the latch through the events of `StatusStep`. -/
theorem busyIsSetByAcceptanceAndClearedByCompletion :
    Obligations.BusyIsSetByAcceptanceAndClearedByCompletion := by
  unfold Obligations.BusyIsSetByAcceptanceAndClearedByCompletion
  intro s t h
  refine ⟨fun w hw hop => ?_, fun hs ht => ?_, fun hturn hop => ?_, fun hs ht => ?_, fun hs hturn => ?_⟩
  · obtain rfl := eq_of_step h (step_of_command_write hw hop)
    rcases issue_cases (w.extractLsb' 0 2) s with ⟨hbusy, hissue⟩ | ⟨-, hissue⟩ <;> rw [hissue]
    · exact hbusy
    · rfl
  · cases statusStep_of_step h with
    | kept hstatus => simp [hstatus, hs] at ht
    | dropped _ _ _ hbusy => simp [hs] at hbusy
    | accepted w hw hop => exact ⟨w, hw, hop⟩
    | cleared v _ heq => simp [heq, Status.writeOneToClear, hs] at ht
    | completed _ hbusy => simp [hs] at hbusy
    | reset _ hstatus => simp [hstatus, Status.reset] at ht
  · cases hbusy : s.status.busy with
    | false =>
      obtain rfl := eq_of_step h (step_of_idle_engine hturn hbusy)
      exact hbusy
    | true =>
      obtain rfl := eq_of_step h (step_of_completion hturn hbusy hop)
      exact (complete_status _ _).1
  · cases statusStep_of_step h with
    | kept hstatus => simp [hstatus, hs] at ht
    | dropped _ _ _ _ heq => simp [heq, hs] at ht
    | accepted _ _ _ hbusy => simp [hs] at hbusy
    | cleared v _ heq => simp [heq, Status.writeOneToClear, hs] at ht
    | completed hturn => exact .inl hturn
    | reset hturn => exact .inr hturn
  · cases statusStep_of_step h with
    | kept hstatus hlatch => exact ⟨hstatus ▸ hs, hlatch⟩
    | dropped _ _ _ _ heq => simp [heq, hs]
    | accepted _ _ _ hbusy => simp [hs] at hbusy
    | cleared v _ heq => simp [heq, Status.writeOneToClear, hs]
    | completed hengine => simp [hturn] at hengine
    | reset hreset => simp [hturn] at hreset

/-- Settles O15: DONE through the events of `StatusStep`. -/
theorem doneIsSetByCompletionOnly : Obligations.DoneIsSetByCompletionOnly := by
  unfold Obligations.DoneIsSetByCompletionOnly
  intro s t h
  refine ⟨fun w hw hop hbusy => ?_, fun v hv hbit => ?_, fun hturn hbusy hop => ?_, fun hs ht => ?_, fun hs ht => ?_⟩
  · obtain rfl := eq_of_step h (step_of_command_write hw hop)
    simp [issue, hbusy]
  · obtain rfl := eq_of_step h (step_of_status_write hv)
    simp [Status.writeOneToClear, hbit]
  · obtain rfl := eq_of_step h (step_of_completion hturn hbusy hop)
    exact (complete_status _ _).2.1
  · cases statusStep_of_step h with
    | kept hstatus => simp [hstatus, hs] at ht
    | dropped _ _ _ _ heq => simp [heq, hs] at ht
    | accepted _ _ _ _ heq => simp [heq] at ht
    | cleared v _ heq => simp [heq, Status.writeOneToClear, hs] at ht
    | completed hturn hbusy => exact ⟨hturn, hbusy⟩
    | reset _ hstatus => simp [hstatus, Status.reset] at ht
  · cases statusStep_of_step h with
    | kept hstatus => simp [hstatus, hs] at ht
    | dropped _ _ _ _ heq => simp [heq, hs] at ht
    | accepted w hw hop hbusy => exact .inr (.inl ⟨w, hw, hop, hbusy⟩)
    | cleared v hv heq => exact .inr (.inr ⟨v, hv, by simpa [heq, Status.writeOneToClear, hs] using ht⟩)
    | completed _ _ _ heq => simp [heq, (complete_status _ _).2.1] at ht
    | reset hturn => exact .inl hturn

/-- Settles O16: ERR and ERRCODE through the events of `StatusStep`, and what a completion reports. -/
theorem errAndErrcodeDescribeTheLastCompletion : Obligations.ErrAndErrcodeDescribeTheLastCompletion := by
  unfold Obligations.ErrAndErrcodeDescribeTheLastCompletion
  refine ⟨⟨rfl, rfl, rfl, rfl, rfl, rfl⟩, fun s t h => ?_⟩
  refine ⟨fun w hw hop hbusy => ?_, fun v hv hbit => ?_, fun hturn hbusy => ⟨?_, ?_,
    completion_reports_reserved h hturn hbusy⟩, fun hturn hbusy hop => ?_, fun hs ht => ?_, fun hne => ?_⟩
  · obtain rfl := eq_of_step h (step_of_command_write hw hop)
    simp [issue, hbusy]
  · obtain rfl := eq_of_step h (step_of_status_write hv)
    simp [Status.writeOneToClear, hbit]
  · intro hop
    generalize hx : encodeFields s.cfg s.latch = x
    exact completion_reports_encode hx h hturn hbusy hop
  · intro hop
    generalize hx : decodeCode s.cfg (codeOf s.latch).char = x
    exact completion_reports_decode hx h hturn hbusy hop
  · exact completion_errcode h hturn hbusy hop
  · cases statusStep_of_step h with
    | kept hstatus => simp [hstatus, hs] at ht
    | dropped _ _ _ _ heq => simp [heq, hs] at ht
    | accepted _ _ _ _ heq => simp [heq] at ht
    | cleared v _ heq => simp [heq, Status.writeOneToClear, hs] at ht
    | completed hturn hbusy => exact ⟨hturn, hbusy⟩
    | reset _ hstatus => simp [hstatus, Status.reset] at ht
  · cases statusStep_of_step h with
    | kept hstatus => simp [hstatus] at hne
    | dropped _ _ _ _ heq => simp [heq] at hne
    | accepted w hw hop hbusy => exact .inr (.inr (.inl ⟨w, hw, hop, hbusy⟩))
    | cleared v hv heq =>
      refine .inr (.inr (.inr ⟨v, hv, ?_⟩))
      cases hbit : v.getLsbD 2 with
      | true => rfl
      | false => simp [heq, Status.writeOneToClear, hbit, -BitVec.getLsbD_eq_getElem] at hne
    | completed hturn hbusy => exact .inr (.inl ⟨hturn, hbusy⟩)
    | reset hturn => exact .inl hturn

/-- Settles O17: OVR through the events of `StatusStep`. -/
theorem ovrIsStickyUntilCleared : Obligations.OvrIsStickyUntilCleared := by
  unfold Obligations.OvrIsStickyUntilCleared
  intro s t h
  refine ⟨fun w hw hop hbusy => ?_, fun hs ht => ?_, fun hs ht => ?_, fun v hv hbit => ?_⟩
  · obtain rfl := eq_of_step h (step_of_command_write hw hop)
    simp [issue, hbusy, drop]
  · cases statusStep_of_step h with
    | kept hstatus => simp [hstatus, hs] at ht
    | dropped w hw hop hbusy => exact ⟨hbusy, w, hw, hop⟩
    | accepted _ _ _ _ heq => simp [heq, hs] at ht
    | cleared v _ heq => simp [heq, Status.writeOneToClear, hs] at ht
    | completed _ _ _ heq => simp [heq, (complete_status _ _).2.2, hs] at ht
    | reset _ hstatus => simp [hstatus, Status.reset] at ht
  · cases statusStep_of_step h with
    | kept hstatus => simp [hstatus, hs] at ht
    | dropped _ _ _ _ heq => simp [heq] at ht
    | accepted _ _ _ _ heq => simp [heq, hs] at ht
    | cleared v hv heq => exact .inr ⟨v, hv, by simpa [heq, Status.writeOneToClear, hs] using ht⟩
    | completed _ _ _ heq => simp [heq, (complete_status _ _).2.2, hs] at ht
    | reset hturn => exact .inl hturn
  · obtain rfl := eq_of_step h (step_of_status_write hv)
    simp [Status.writeOneToClear, hbit]

end Sys2Proof.Machine

/-! ## Memory accesses: lanes and side effects (20_memory.md R61, R62, R65) -/

namespace Sys2Proof.Machine

/-- Lane `b` of an aligned register sits in its own word: masking gives the register's offset, the remainder gives the
lane. -/
theorem Reg.offset_add_lane (r : Reg) :
    ∀ b < 4, (r.offset + BitVec.ofNat 8 b) &&& 0xFC = r.offset ∧ (r.offset + BitVec.ofNat 8 b).toNat % 4 = b := by
  cases r <;> decide

/-- Byte lane `b` of a register sits `b` bytes above its offset (20_memory.md R61). -/
theorem windowByte_offset_add {b : Nat} (hb : b < 4) (r : Reg) (s : State) :
    windowByte (r.offset + BitVec.ofNat 8 b) s = lane (readReg r s) b := by
  obtain ⟨hoff, hlane⟩ := Reg.offset_add_lane r b hb
  rw [windowByte, hoff, hlane, busRead_offset]

/-- The code registers lie one after another, so a character's offset is its index above the first one's
(20_memory.md R62). -/
theorem windowByte_charOffset (i : Idx) (s : State) : windowByte (charOffset i) s = s.code.char i := by
  fin_cases i <;> rfl

/-- The reserved byte of CODE4 reads 0 (10_state.md R35). -/
theorem windowByte_reserved_code4 (s : State) : windowByte 0x33 s = 0 :=
  calc windowByte 0x33 s
    _ = lane (readReg .code4 s) 3 := windowByte_offset_add (b := 3) (by decide) .code4 s
    _ = 0 := extractLsb'_setWidth_eq_zero s.code.code4 8 (by decide)

/-- The low three bytes of a word do not depend on its high byte. -/
theorem setWidth_word4_congr (b3 b3' b2 b1 b0 : Byte) :
    (word4 b3 b2 b1 b0).setWidth 24 = (word4 b3' b2 b1 b0).setWidth 24 := by
  apply BitVec.eq_of_getLsbD_eq
  intro i hi
  simp only [BitVec.getLsbD_setWidth, getLsbD_word4, hi, if_true]

/-- Settles O11: a register's lanes, the characters of the code, and the byte of CODE4 with no storage. -/
theorem windowIsLittleEndian : Obligations.WindowIsLittleEndian := by
  unfold Obligations.WindowIsLittleEndian
  refine ⟨fun r b s hb => ?_, fun s i => ⟨windowByte_charOffset i s, windowByte_reserved_code4 s⟩,
    fun s b3 b3' b2 b1 b0 => ?_⟩
  · rw [windowByte_offset_add hb, busRead_offset, lane]
  · exact congrArg (fun c => Host.Outcome.next { s with code := { s.code with code4 := c } })
      (setWidth_word4_congr b3 b3' b2 b1 b0)

/-- Clearing the same bits of STATUS again changes nothing. -/
theorem writeOneToClear_idempotent (st : Status) (v : Word) :
    (st.writeOneToClear v).writeOneToClear v = st.writeOneToClear v := by
  simp +contextual [Status.writeOneToClear]

/-- Writing the same value to a register again changes nothing. -/
theorem writeReg_idempotent (r : Reg) (v : Word) (s : State) : writeReg r v (writeReg r v s) = writeReg r v s := by
  cases r with
  | status => exact congrArg (fun st => { s with status := st }) (writeOneToClear_idempotent s.status v)
  | _ => rfl

/-- An RW register is not STATUS. -/
theorem ne_status_of_mem_rwRegisters {r : Reg} (h : r ∈ rwRegisters) : r ≠ .status := by
  rintro rfl
  exact absurd h (by decide)

/-- Where only a read-only register can be, a write is ignored. -/
theorem busWrite_of_readOnly_or_reserved {off : Offset} (h : ∀ r : Reg, off = r.offset → r ∈ roRegisters) (v : Word)
    (s : State) : busWrite off v s = .next s := by
  cases hr : Reg.ofOffset off with
  | none => exact busWrite_of_none hr v s
  | some r =>
    obtain rfl := Reg.offset_of_ofOffset hr
    exact busWrite_of_mem_roRegisters (h r rfl) v s

/-- After a command is written, one is in flight: the command itself or the one that made it be dropped
(46_commands.md R230). -/
theorem issue_busy (op : BitVec 2) (s : State) : (issue op s).status.busy = true := by
  rcases issue_cases op s with ⟨hbusy, h⟩ | ⟨_, h⟩
  · simp [h, hbusy]
  · simp [h]

/-- Issuing a command leaves the schedule. -/
theorem issue_turn (op : BitVec 2) (s : State) : (issue op s).turn = s.turn := by
  rcases issue_cases op s with ⟨_, h⟩ | ⟨_, h⟩ <;> simp [h]

/-- A command written after another is dropped, and sets OVR (46_commands.md R231). -/
theorem exec_exec_of_host {i j : Instr} {s t : State} (hi : i.op ≠ 0) (hj : j.op ≠ 0) (hturn : s.turn = some .host)
    (h : exec i s = .next t) : exec j t = .next (drop t) := by
  obtain rfl := Host.Outcome.next.inj ((exec_of_host hi hturn).symm.trans h)
  rw [exec_of_host hj ((issue_turn _ _).trans hturn), issue, if_pos (issue_busy _ _)]

/-- Settles O12: reads by `step_of_read`, writes by what `writeReg` keeps, and a second command by its being dropped. -/
theorem sideEffectsOfAccesses : Obligations.SideEffectsOfAccesses := by
  unfold Obligations.SideEffectsOfAccesses
  refine ⟨fun s off hturn hop haligned => step_of_read hturn hop haligned, fun r hr v s => ?_,
    fun off v s h => busWrite_of_readOnly_or_reserved h v s,
    fun v s => ⟨busWrite_offset (r := .status) (by decide) v s, busWrite_cmd v s⟩,
    fun i j s t hi hj hturn h => exec_exec_of_host hi hj hturn h⟩
  have hcmd := ne_cmd_of_mem_rwRegisters hr
  refine ⟨writeReg r v s, busWrite_offset hcmd v s, ?_, fun off hoff => busRead_writeReg_of_ne hoff v s, ?_,
    ?_, writeReg_eInfo r v s, writeReg_latch r v s, ?_, ?_⟩
  · rw [busRead_offset, readReg_writeReg_same hr]
  · simp [writeReg_status, ne_status_of_mem_rwRegisters hr]
  · exact ⟨writeReg_dSerial r v s, writeReg_dFields r v s, writeReg_dMaterial r v s, writeReg_dVersion r v s,
      writeReg_dCheck r v s⟩
  · exact ⟨writeReg_cfg r v s, writeReg_program r v s, writeReg_observed r v s, writeReg_schedule r v s,
      writeReg_resets r v s⟩
  · rw [busWrite_offset hcmd, writeReg_idempotent]

end Sys2Proof.Machine

/-! ## Memory accesses: faults (20_memory.md R64) -/

namespace Sys2Proof.Machine

/-- The offset of the bus fault that a host operation raises, if it raises one (20_memory.md R64). -/
def faultOffset : HostOp → Option Offset
  | .access a => if a.wellFormed then none else some (accessOffset a)
  | .expect off _ => if (Access.read off 32).wellFormed then none else some off
  | .wait => none

/-- An access is bad if it is misaligned or not 32 bits wide. -/
theorem read_not_wellFormed_iff {off : Offset} {width : Nat} :
    ¬ (Access.read off width).wellFormed = true ↔ width ≠ 32 ∨ off.toNat % 4 ≠ 0 := by
  simp [Access.wellFormed, imp_iff_not_or]

theorem write_not_wellFormed_iff {off : Offset} {width : Nat} {v : Word} :
    ¬ (Access.write off width v).wellFormed = true ↔ width ≠ 32 ∨ off.toNat % 4 ≠ 0 :=
  read_not_wellFormed_iff

/-- An expectation is a read of 32 bits, so only its offset can be bad (30_encoding.md R84). -/
theorem expect_not_wellFormed_iff {off : Offset} :
    ¬ (Access.read off 32).wellFormed = true ↔ off.toNat % 4 ≠ 0 := by
  simp [Access.wellFormed]

theorem faultOffset_read {off : Offset} {width : Nat} (h : width ≠ 32 ∨ off.toNat % 4 ≠ 0) :
    faultOffset (.access (.read off width)) = some off :=
  if_neg (read_not_wellFormed_iff.mpr h)

theorem faultOffset_write {off : Offset} {width : Nat} (h : width ≠ 32 ∨ off.toNat % 4 ≠ 0) (v : Word) :
    faultOffset (.access (.write off width v)) = some off :=
  if_neg (write_not_wellFormed_iff.mpr h)

theorem faultOffset_expect {off : Offset} (h : off.toNat % 4 ≠ 0) (v : Word) :
    faultOffset (.expect off v) = some off :=
  if_neg (expect_not_wellFormed_iff.mpr h)

/-- Only bad reads, writes and expectations raise a fault. -/
theorem faultOffset_eq_some {op : HostOp} {off : Offset} (h : faultOffset op = some off) :
    (∃ width, (width ≠ 32 ∨ off.toNat % 4 ≠ 0) ∧
      (op = .access (.read off width) ∨ ∃ v, op = .access (.write off width v))) ∨
    (off.toNat % 4 ≠ 0 ∧ ∃ v, op = .expect off v) := by
  cases op with
  | access a =>
    obtain ⟨hbad, hoff⟩ := Option.ite_none_left_eq_some.mp h
    cases a with
    | read off' width =>
      cases hoff
      exact .inl ⟨width, read_not_wellFormed_iff.mp hbad, .inl rfl⟩
    | write off' width v =>
      cases hoff
      exact .inl ⟨width, write_not_wellFormed_iff.mp hbad, .inr ⟨v, rfl⟩⟩
  | expect off' v =>
    obtain ⟨hbad, hoff⟩ := Option.ite_none_left_eq_some.mp h
    cases hoff
    exact .inr ⟨expect_not_wellFormed_iff.mp hbad, v, rfl⟩
  | wait => cases h

/-- A bus access that is well formed answers a next state. -/
theorem busAccess_next {a : Access} (h : a.wellFormed = true) (s : State) : ∃ t, busAccess a s = .next t := by
  cases a with
  | read off width => exact ⟨observe off none s, if_pos h⟩
  | write off width v =>
    obtain ⟨t, ht⟩ := busWrite_next off v s
    exact ⟨t, (if_pos h).trans ht⟩

/-- The host's turn is the fault of its next operation. -/
theorem hostTurn_of_fault {s : State} {op : HostOp} {off : Offset} (hop : s.program.head? = some op)
    (h : faultOffset op = some off) : hostTurn s = .fault (.busFault off) := by
  obtain ⟨rest, hp⟩ := List.head?_eq_some_iff.mp hop
  cases op with
  | access a =>
    obtain ⟨hbad, hoff⟩ := Option.ite_none_left_eq_some.mp h
    cases hoff
    simp [hostTurn, hp, busAccess, hbad, mapNext]
  | expect off' v =>
    obtain ⟨hbad, hoff⟩ := Option.ite_none_left_eq_some.mp h
    cases hoff
    simp only [hostTurn, hp, if_neg hbad]
  | wait => cases h

/-- The host's turn answers a next state if its next operation raises no fault. -/
theorem hostTurn_next {s : State} (h : ∀ op, s.program.head? = some op → faultOffset op = none) :
    ∃ t, hostTurn s = .next t := by
  cases hp : s.program with
  | nil => exact ⟨_, by rw [hostTurn, hp]⟩
  | cons op rest =>
    have hgood := h op (by rw [hp, List.head?_cons])
    cases op with
    | access a =>
      have hwf : a.wellFormed = true := by simpa [faultOffset] using hgood
      obtain ⟨t, ht⟩ := busAccess_next hwf s
      exact ⟨retire t, by simp only [hostTurn, hp, ht, mapNext_next]⟩
    | expect off v =>
      have hwf : (Access.read off 32).wellFormed = true := by simpa [faultOffset] using hgood
      exact ⟨retire (observe off (some v) s), by simp only [hostTurn, hp, if_pos hwf]⟩
    | wait => exact ⟨waitStep s, by simp only [hostTurn, hp]⟩

/-- The engine's turn answers a next state: the errors of a command are reported in STATUS. -/
theorem engineTurn_next (s : State) : ∃ t, engineTurn s = .next t := by
  unfold engineTurn
  split
  · obtain ⟨t, ht⟩ := exec_next (decodeOp s.latch.op 0) s
    exact ⟨endTurn t, by rw [ht, mapNext_next]⟩
  · exact ⟨_, rfl⟩

/-- A step at the host's turn is the fault of the host's next operation. -/
theorem step_of_fault {s : State} {op : HostOp} {off : Offset} (hturn : s.nextTurn = .host)
    (hop : s.program.head? = some op) (h : faultOffset op = some off) : step s = .fault (.busFault off) := by
  rw [step_of_host hturn]
  exact hostTurn_of_fault hop h

/-- Every step answers a next state, or is the fault of the host's next operation. -/
theorem step_next_or_fault (s : State) :
    (∃ t, step s = .next t) ∨
    ∃ op off, s.nextTurn = .host ∧ s.program.head? = some op ∧ faultOffset op = some off ∧
      step s = .fault (.busFault off) := by
  cases hturn : s.nextTurn with
  | host =>
    by_cases hgood : ∀ op, s.program.head? = some op → faultOffset op = none
    · rw [step_of_host hturn]
      exact .inl (hostTurn_next hgood)
    · push Not at hgood
      obtain ⟨op, hop, hne⟩ := hgood
      obtain ⟨off, hoff⟩ := Option.ne_none_iff_exists'.mp hne
      exact .inr ⟨op, off, rfl, hop, hoff, step_of_fault hturn hop hoff⟩
  | engine =>
    rw [step_of_engine hturn]
    exact .inl (engineTurn_next _)
  | reset => exact .inl ⟨_, step_of_reset hturn⟩

/-- Every fault of a step is that of the host's next operation. -/
theorem step_eq_fault {s : State} {f : Fault} (h : step s = .fault f) :
    ∃ op off, f = .busFault off ∧ s.nextTurn = .host ∧ s.program.head? = some op ∧ faultOffset op = some off := by
  rcases step_next_or_fault s with ⟨t, ht⟩ | ⟨op, off, hturn, hop, hoff, hfault⟩
  · cases ht.symm.trans h
  · exact ⟨op, off, Host.Outcome.fault.inj (h.symm.trans hfault), hturn, hop, hoff⟩

/-- No step is refused. -/
theorem step_ne_refused (s : State) (q : Refusal) : step s ≠ .refused q := by
  intro h
  rcases step_next_or_fault s with ⟨t, ht⟩ | ⟨_, _, _, _, _, hfault⟩
  · cases ht.symm.trans h
  · cases hfault.symm.trans h

/-- Settles O6: a step faults exactly by the host's next operation, which faults exactly where it is bad. -/
theorem stepFaultsExactlyOnBadAccesses : Obligations.StepFaultsExactlyOnBadAccesses := by
  unfold Obligations.StepFaultsExactlyOnBadAccesses
  refine ⟨fun s off width hturn hop hbad => ?_,
    fun s off v hturn hop hbad => step_of_fault hturn hop (faultOffset_expect hbad v), fun s f h => ?_,
    step_ne_refused⟩
  · rcases hop with hop | ⟨v, hop⟩
    · exact step_of_fault hturn hop (faultOffset_read hbad)
    · exact step_of_fault hturn hop (faultOffset_write hbad v)
  · obtain ⟨op, off, hf, hturn, hop, hoff⟩ := step_eq_fault h
    refine ⟨off, hf, hturn, ?_⟩
    rw [hop]
    simpa only [Option.some.injEq] using faultOffset_eq_some hoff

end Sys2Proof.Machine

/-! ## The command word (30_encoding.md R80, R81) -/

namespace Sys2Proof

theorem decodeOp_zero (r : BitVec 30) : decodeOp 0 r = .nop r := rfl

theorem decodeOp_one (r : BitVec 30) : decodeOp 1 r = .encode r := rfl

theorem decodeOp_two (r : BitVec 30) : decodeOp 2 r = .decode r := rfl

theorem decodeOp_three (r : BitVec 30) : decodeOp 3 r = .reserved r := rfl

/-- Bits 1:0 of a word select its command; bits 31:2 stand beside it (30_encoding.md R81). -/
theorem decodeWord_of_low_bits {w : Word} {op : BitVec 2} (h : w.extractLsb' 0 2 = op) :
    decodeWord w = decodeOp op (w.extractLsb' 2 30) := by
  rw [decodeWord, h]

/-- Settles O1: `decodeOp` of bits 1:0, one OP value at a time, with bits 31:2 as the ignored bits. -/
theorem everyWordDecodesByItsLowTwoBits : Obligations.EveryWordDecodesByItsLowTwoBits := by
  unfold Obligations.EveryWordDecodesByItsLowTwoBits
  intro w
  refine ⟨w.extractLsb' 2 30, fun h => ?_, fun h => ?_, fun h => ?_, fun h => ?_⟩
  · rw [decodeWord_of_low_bits h, decodeOp_zero]
  · rw [decodeWord_of_low_bits h, decodeOp_one]
  · rw [decodeWord_of_low_bits h, decodeOp_two]
  · rw [decodeWord_of_low_bits h, decodeOp_three]

end Sys2Proof

/-! ## The alphabet (40_alphabet.md R101, R102, R105) -/

namespace Sys2Proof.Machine

/-- Settles O20: `charOf` on either side of the boundary between 34 and 35. -/
theorem charOfIsADirectIndex : Obligations.CharOfIsADirectIndex := by
  unfold Obligations.CharOfIsADirectIndex
  exact fun c p => ⟨fun h => charOf_of_lt c (by omega), fun h => charOf_of_ge c (by omega)⟩

/-- The canonical bytes are the characters at the positions 0..31 (40_alphabet.md R100). -/
theorem mem_canonical_iff {c : Cfg} {ch : Byte} : ch ∈ c.canonical ↔ ∃ i : Fin 32, sym c i = ch := by
  rw [List.mem_iff_getElem]
  constructor
  · rintro ⟨k, hk, heq⟩
    have hk32 : k < 32 := by simpa only [canonical_length] using hk
    exact ⟨⟨k, hk32⟩, (canonical_get c hk32).symm.trans heq⟩
  · rintro ⟨i, heq⟩
    exact ⟨i, by rw [canonical_length]; exact i.isLt, (canonical_get c i.isLt).trans heq⟩

/-- The position of a byte is the first one that has it as its character, whether or not the alphabet repeats it. -/
theorem positionOf_of_first {c : Cfg} {ch : Byte} {i : Fin 32} (heq : sym c i = ch)
    (hfirst : ∀ j : Fin 32, j < i → sym c j ≠ ch) : positionOf c ch = i := by
  have hi : i.val < c.canonical.length := by rw [canonical_length]; exact i.isLt
  have hget : c.canonical[i.val] = ch := (canonical_get c i.isLt).trans heq
  have hbefore : ∀ j, (hj : j < i.val) → c.canonical[j] ≠ ch := fun j hj => by
    rw [canonical_get c (hj.trans i.isLt)]
    exact hfirst ⟨j, hj.trans i.isLt⟩ hj
  rw [positionOf, firstIndex_of_get ch c.canonical 0 i hi hget hbefore, Nat.zero_add]

/-- A byte that is not canonical counts as position 31. -/
theorem positionOf_of_not_mem_canonical {c : Cfg} {ch : Byte} (h : ch ∉ c.canonical) : positionOf c ch = 31 :=
  firstIndex_of_not_mem ch c.canonical 0 h

/-- Settles O21: the search through the canonical part finds the first place of a byte, or nothing. -/
theorem positionOfIsTheFirstCanonicalMatch : Obligations.PositionOfIsTheFirstCanonicalMatch := by
  unfold Obligations.PositionOfIsTheFirstCanonicalMatch
  refine fun c ch => ⟨fun i heq hfirst => positionOf_of_first heq hfirst, fun hnone => ?_⟩
  exact positionOf_of_not_mem_canonical fun hmem =>
    have ⟨i, heq⟩ := mem_canonical_iff.mp hmem
    hnone i heq

/-- A raw position depends on its code byte and on the byte that holds the shift base through their positions only
(44_shift.md R189). -/
theorem inverseShift_congr {c : Cfg} {code code' : Idx → Byte} {i : Idx}
    (hbase : positionOf c (code 17) = positionOf c (code' 17))
    (hi : positionOf c (code i) = positionOf c (code' i)) : inverseShift c code i = inverseShift c code' i := by
  simp only [inverseShift, hbase, hi]

/-- DECODE reads the code through its raw positions only (46_commands.md R250). -/
theorem decodeCode_congr {c : Cfg} {code code' : Idx → Byte} (h : inverseShift c code = inverseShift c code') :
    decodeCode c code = decodeCode c code' := by
  simp only [decodeCode, h]

/-- A byte that is not canonical and the character of position 31 have the same position (40_alphabet.md R105). -/
theorem positionOf_replace_unknown {c : Cfg} (h : c.canonical.Nodup) (ch : Byte) :
    positionOf c (if ch ∈ c.canonical then ch else sym c 31) = positionOf c ch := by
  by_cases hmem : ch ∈ c.canonical
  · rw [if_pos hmem]
  · rw [if_neg hmem, positionOf_of_not_mem_canonical hmem]
    exact positionOf_alphabet h (show 31 < 32 by decide)

/-- Settles O41: the replacement keeps every position, and DECODE reads the code through positions only. -/
theorem unknownBytesDecodeAsPosition31 : Obligations.UnknownBytesDecodeAsPosition31 := by
  unfold Obligations.UnknownBytesDecodeAsPosition31
  refine ⟨fun c code ⟨hnodup, _⟩ => ?_, fun c code e he => ?_⟩
  · have hpos (i : Idx) := (positionOf_replace_unknown hnodup (code i)).symm
    exact decodeCode_congr (funext fun i => inverseShift_congr (hpos 17) (hpos i))
  · simpa [decodeErrors] using decodeCode_raisesOnly c code e he

end Sys2Proof.Machine

/-! ## The seed (41_seed.md R121, R122) and the shift base of DECODE (44_shift.md R190) -/

namespace Sys2Proof.Machine

/-! ### The seed sequence -/

theorem mem_allIdx (i : Idx) : i ∈ allIdx := by
  revert i
  decide

/-- Putting the separators in: SEP at 4, 9 and 14, the array elsewhere. -/
theorem setAt_separators (a : Idx → Byte) (i : Idx) :
    ((i = 4 ∨ i = 9 ∨ i = 14) → setAt (setAt (setAt a 4 SEP) 9 SEP) 14 SEP i = SEP) ∧
      (i ≠ 4 → i ≠ 9 → i ≠ 14 → setAt (setAt (setAt a 4 SEP) 9 SEP) 14 SEP i = a i) := by
  refine ⟨?_, fun h4 h9 h14 => by rw [setAt_other _ _ h14, setAt_other _ _ h9, setAt_other _ _ h4]⟩
  rintro (rfl | rfl | rfl) <;> rfl

/-- When every entry of the row has its character, the seed sequence is those characters with the separators put in. -/
theorem seedSequence_of_charOf {c : Cfg} {d4 : Fin 10} {g : Idx → Byte}
    (h : ∀ i : Idx, charOf c c.seed[d4][i] = .ok (g i)) :
    seedSequence c d4 = .ok (setAt (setAt (setAt g 4 SEP) 9 SEP) 14 SEP) := by
  have hfill : fillM allIdx (fun i => charOf c c.seed[d4][i]) (fun _ => SEP) = .ok g := by
    rw [fillM_ok _ fun i _ => h i]
    simp only [mem_allIdx, if_true]
  rw [seedSequence, hfill]
  rfl

/-- Under `WF` (b) every entry of the seed ROM is a position of the alphabet (00_scope.md R4). -/
theorem seed_entry_lt {c : Cfg} (h : c.SeedOk) (d4 : Fin 10) (i : Idx) : c.seed[d4][i] < 35 := by
  have hrow : c.seed[d4] ∈ c.seed.toList := by simp
  have hentry : c.seed[d4][i] ∈ c.seed[d4].toList := by simp
  exact Nat.lt_succ_of_le (h _ hrow _ hentry)

/-- Settles O23: no entry raises, so the working array holds the row's characters before the separators go in. -/
theorem seedSequenceFromItsRow : Obligations.SeedSequenceFromItsRow := by
  unfold Obligations.SeedSequenceFromItsRow
  intro c d4 hseed
  have hchar (i : Idx) := charOf_of_lt c (seed_entry_lt hseed d4 i)
  refine ⟨_, seedSequence_of_charOf hchar, fun i => ?_⟩
  obtain ⟨hsep, hrow⟩ := setAt_separators (fun j => c.alphabet[c.seed[d4][j]]'(seed_entry_lt hseed d4 j)) i
  exact ⟨hsep, fun h4 h9 h14 => by rw [hrow h4 h9 h14, hchar i]⟩

/-! ### What DECODE reads of the configuration -/

/-- The raw position at 17 is the shift base, as the code holds it (44_shift.md R190). -/
@[simp] theorem inverseShift_seventeen (c : Cfg) (code : Idx → Byte) :
    inverseShift c code 17 = positionOf c (code 17) := by
  have hfield : (17 : Idx) ∉ fieldIdx := by decide
  have hsum : ¬((17 : Idx) = 7 ∨ (17 : Idx) = 8) := by decide
  simp only [inverseShift, if_neg hfield, if_neg hsum, if_true]

/-- Positions depend on the alphabet only (40_alphabet.md R102). -/
theorem positionOf_congr_cfg {c c' : Cfg} (h : c'.alphabet = c.alphabet) (ch : Byte) :
    positionOf c' ch = positionOf c ch := by
  simp only [positionOf, Cfg.canonical, h]

/-- The raw array depends on the alphabet and the magic table only (44_shift.md R189). -/
theorem inverseShift_congr_cfg {c c' : Cfg} (halphabet : c'.alphabet = c.alphabet) (hmagic : c'.magic = c.magic)
    (code : Idx → Byte) : inverseShift c' code = inverseShift c code := by
  funext i
  simp only [inverseShift, offsetAt, positionOf_congr_cfg halphabet, hmagic]

/-- All that DECODE reads of the configuration: the alphabet, the magic table and the parameters of the code-type
validation (46_commands.md R250-R255). -/
theorem decodeCode_congr_cfg {c c' : Cfg} (halphabet : c'.alphabet = c.alphabet) (hmagic : c'.magic = c.magic)
    (hknown : c'.ctKnown = c.ctKnown) (hindex : c'.ctCheckIndex = c.ctCheckIndex)
    (hmask : c'.ctCheckMask = c.ctCheckMask) (code : Idx → Byte) : decodeCode c' code = decodeCode c code := by
  simp only [decodeCode, validateCodeType, inverseShift_congr_cfg halphabet hmagic, hknown, hindex, hmask]

/-- Settles O43: the replaced tables are none of those DECODE reads, and the overflow is none of its errors. -/
theorem decodeRecoversTheShiftBaseWithoutTheEncodeTables :
    Obligations.DecodeRecoversTheShiftBaseWithoutTheEncodeTables := by
  unfold Obligations.DecodeRecoversTheShiftBaseWithoutTheEncodeTables
  refine ⟨inverseShift_seventeen, fun c code seed sn snMod ctTable hmTable => ?_, fun c code herr => ?_⟩
  · exact decodeCode_congr_cfg rfl rfl rfl rfl rfl code
  · have hmem : ErrCode.shiftBaseOverflow ∈ decodeErrors := decodeCode_raisesOnly c code _ herr
    exact absurd hmem (by decide)

end Sys2Proof.Machine

/-! ## The embedder and the separators (42_embed.md R142, R143) -/

namespace Sys2Proof.Machine

/-! ### The embedded position -/

/-- The eight bits of `r` as a plain number (42_embed.md R143, R145): a position fits in a byte, so nothing is cut
off. -/
theorem toNat_embedPosition (c : Cfg) (seedChar raw mask : Byte) :
    (embedPosition c seedChar raw mask).toNat =
      ((255 - mask.toNat) &&& positionOf c seedChar &&& 0x1F) ||| raw.toNat := by
  have hpos : positionOf c seedChar % 2 ^ 8 = positionOf c seedChar :=
    Nat.mod_eq_of_lt (by have := positionOf_le c seedChar; omega)
  simp only [embedPosition, BitVec.toNat_or, BitVec.toNat_and, BitVec.toNat_not, BitVec.toNat_ofNat, hpos]
  rfl

/-- Settles O24: `embed` is `charOf` of the merged position, on either side of the boundary between 34 and 35. -/
theorem embedMergesUnderTheMask : Obligations.EmbedMergesUnderTheMask := by
  unfold Obligations.EmbedMergesUnderTheMask
  intro c seedChar raw mask r hr
  have hembed : embed c seedChar raw mask = charOf c r := by rw [embed, toNat_embedPosition, hr]
  exact ⟨fun h => hembed.trans (charOf_of_lt c (by omega)), fun h => hembed.trans (charOf_of_ge c (by omega))⟩

/-! ### The separators -/

/-- The seed sequence has the separator at 4, 9 and 14 (41_seed.md R121). -/
theorem seedSequence_separator {c : Cfg} {d4 : Fin 10} {s : Idx → Byte} (h : seedSequence c d4 = .ok s) {i : Idx}
    (hi : i = 4 ∨ i = 9 ∨ i = 14) : s i = SEP := by
  obtain ⟨row, -, hs⟩ := bind_eq_ok h
  cases hs
  exact (setAt_separators row i).1 hi

/-- An index that is neither a field, nor a checksum, nor the shift base keeps its seed character through every step of
ENCODE. -/
theorem encodeFields_keeps_seed {c : Cfg} {l : Latch} {r : EncodeResult} (h : encodeFields c l = .ok r) :
    ∃ d s, serialDigits l = .ok d ∧ seedSequence c d.d4 = .ok s ∧
      ∀ i, i ∉ fieldIdx → i ∉ [7, 8] → i ∉ [17] → r.chars i = s i := by
  obtain ⟨ct, d, hm, s, e, e1, e2, -, hd, -, hseed, hembed, -, hsum, -, hbase, hshift⟩ := encodeFields_eq_ok h
  refine ⟨d, s, hd, hseed, fun i hfield hchecksum h17 => ?_⟩
  calc r.chars i
    _ = e2 i := (fillM_eq_ok hshift).2 i hfield
    _ = e1 i := (fillM_eq_ok hbase).2 i h17
    _ = e i := (fillM_eq_ok hsum).2 i hchecksum
    _ = s i := (fillM_eq_ok hembed).2 i hfield

/-- The separators are none of the indices that ENCODE writes after the seed. -/
theorem separator_not_written {i : Idx} (hi : i = 4 ∨ i = 9 ∨ i = 14) : i ∉ fieldIdx ∧ i ∉ [7, 8] ∧ i ∉ [17] := by
  rcases hi with rfl | rfl | rfl <;> decide

/-- Every code ENCODE writes has the separator at 4, 9 and 14 (42_embed.md R142). -/
theorem encodeFields_separator {c : Cfg} {l : Latch} {r : EncodeResult} (h : encodeFields c l = .ok r) {i : Idx}
    (hi : i = 4 ∨ i = 9 ∨ i = 14) : r.chars i = SEP := by
  obtain ⟨d, s, -, hseed, hkeep⟩ := encodeFields_keeps_seed h
  obtain ⟨hfield, hchecksum, h17⟩ := separator_not_written hi
  rw [hkeep i hfield hchecksum h17, seedSequence_separator hseed hi]

/-- The raw position of a separator does not depend on the code (44_shift.md R189). -/
theorem inverseShift_separator (c : Cfg) (code code' : Idx → Byte) {i : Idx} (hi : i = 4 ∨ i = 9 ∨ i = 14) :
    inverseShift c code i = inverseShift c code' i := by
  obtain ⟨hfield, hchecksum, h17⟩ := separator_not_written hi
  simp only [List.mem_cons, List.not_mem_nil, or_false] at hchecksum h17
  simp only [inverseShift, if_neg hfield, if_neg hchecksum, if_neg h17]

/-- Codes that agree outside the separators have the same raw positions. -/
theorem inverseShift_eq_of_agree {c : Cfg} {code code' : Idx → Byte}
    (h : ∀ i : Idx, i ≠ 4 → i ≠ 9 → i ≠ 14 → code i = code' i) : inverseShift c code = inverseShift c code' := by
  funext i
  by_cases hi : i = 4 ∨ i = 9 ∨ i = 14
  · exact inverseShift_separator c code code' hi
  · simp only [not_or] at hi
    obtain ⟨h4, h9, h14⟩ := hi
    have hbase : code 17 = code' 17 := h 17 (by decide) (by decide) (by decide)
    exact inverseShift_congr (congrArg _ hbase) (congrArg _ (h i h4 h9 h14))

/-- Settles O42: ENCODE keeps the separators that the seed sequence put in, and DECODE reads the code through raw
positions, which do not depend on them. -/
theorem separatorsAreWrittenAndNotRead : Obligations.SeparatorsAreWrittenAndNotRead := by
  unfold Obligations.SeparatorsAreWrittenAndNotRead
  refine ⟨fun c l r h => ?_, fun c code code' h => decodeCode_congr (inverseShift_eq_of_agree h)⟩
  have hsep {i : Idx} (hi : i = 4 ∨ i = 9 ∨ i = 14) := encodeFields_separator h hi
  exact ⟨hsep (by decide), hsep (by decide), hsep (by decide)⟩

end Sys2Proof.Machine

/-! ## The checksum write (43_checksum.md R161) -/

namespace Sys2Proof.Machine

/-! ### Working arrays that are filled without an error -/

/-- A fill succeeds when no value it asks for raises an error. -/
theorem fillM_total {is : List Idx} {f : Idx → Except ErrCode Byte} (a : Idx → Byte)
    (h : ∀ i ∈ is, ∃ b, f i = .ok b) : ∃ a', fillM is f a = .ok a' := by
  cases hfill : fillM is f a with
  | ok a' => exact ⟨a', rfl⟩
  | error e =>
    obtain ⟨i, hi, herr⟩ := fillM_eq_error hfill
    obtain ⟨b, hb⟩ := h i hi
    rw [hb] at herr
    cases herr

/-- A shifted position has a character (40_alphabet.md R101; 44_shift.md R186). -/
theorem charOf_shift_ok (c : Cfg) (k : Nat) {p : Nat} (hp : p ≤ 31) : ∃ b, charOf c (shift k p) = .ok b :=
  ⟨_, charOf_of_lt c (show shift k p < 35 by have := shift_lt k hp; omega)⟩

/-- The forward shift leaves every index that is not a field index (44_shift.md R187). -/
theorem forwardShift_keeps {c : Cfg} {base : Nat} {e chars : Idx → Byte} (h : forwardShift c base e = .ok chars)
    {i : Idx} (hi : i ∉ fieldIdx) : chars i = e i :=
  (fillM_eq_ok h).2 i hi

/-! ### The two nibbles -/

theorem highNibble_le (sum : Nat) : highNibble sum ≤ 15 := Nat.and_le_right

theorem lowNibble_le (sum : Nat) : lowNibble sum ≤ 15 := Nat.and_le_right

/-- The checksum write never raises: a nibble is a position, and so is its shift. -/
theorem writeChecksum_total (c : Cfg) (sum : Nat) (e : Idx → Byte) : ∃ e', writeChecksum c sum e = .ok e' := by
  have hhigh := highNibble_le sum
  have hlow := lowNibble_le sum
  refine fillM_total e fun i _ => charOf_shift_ok c 0 ?_
  split <;> omega

/-- What a checksum write leaves: the high nibble's character at 7, the low nibble's at 8, the array elsewhere. -/
theorem writeChecksum_eq_ok {c : Cfg} {sum : Nat} {e e' : Idx → Byte} (h : writeChecksum c sum e = .ok e') :
    charOf c (shift 0 (highNibble sum)) = .ok (e' 7) ∧ charOf c (shift 0 (lowNibble sum)) = .ok (e' 8) ∧
      ∀ i : Idx, i ≠ 7 → i ≠ 8 → e' i = e i := by
  obtain ⟨hwritten, hkept⟩ := fillM_eq_ok h
  exact ⟨hwritten 7 (by decide), hwritten 8 (by decide), fun i h7 h8 => hkept i (by simp [h7, h8])⟩

/-- Settles O26: both nibbles are positions, so the write raises nothing, and 7 and 8 are not field indices, so the
forward shift leaves them. -/
theorem checksumWriteStoresTheTwoNibbles : Obligations.ChecksumWriteStoresTheTwoNibbles := by
  unfold Obligations.ChecksumWriteStoresTheTwoNibbles
  intro c sum e
  obtain ⟨e', hwrite⟩ := writeChecksum_total c sum e
  obtain ⟨hhigh, hlow, hframe⟩ := writeChecksum_eq_ok hwrite
  refine ⟨e', hwrite, hhigh, hlow, hframe, fun base chars hshift => ?_⟩
  exact ⟨forwardShift_keeps hshift (by decide), forwardShift_keeps hshift (by decide)⟩

end Sys2Proof.Machine

/-! ## The shift engine (44_shift.md R180-R183, R187, R189) -/

namespace Sys2Proof.Machine

/-! ### The shift base -/

/-- With `n` subtractions of 32 allowed, exactly the sums below `32 * (n + 1)` reduce, to their remainder
(44_shift.md R183). -/
theorem reduceWithin_eq (n pre : Nat) :
    reduceWithin n pre = if pre < 32 * (n + 1) then .ok (pre % 32) else .error .shiftBaseOverflow := by
  induction n generalizing pre with
  | zero =>
    by_cases h : pre > 31
    · rw [reduceWithin, if_pos h, if_neg (by omega)]
    · rw [reduceWithin, if_neg h, if_pos (by omega), Nat.mod_eq_of_lt (by omega)]
  | succ n ih =>
    by_cases h : pre > 31
    · have hbound : pre - 32 < 32 * (n + 1) ↔ pre < 32 * (n + 1 + 1) := by omega
      have hmod : (pre - 32) % 32 = pre % 32 := (Nat.mod_eq_sub_mod h).symm
      simp only [reduceWithin, if_pos h, ih, hbound, hmod]
    · rw [reduceWithin, if_neg h, if_pos (by omega), Nat.mod_eq_of_lt (by omega)]

/-- Settles O27: five subtractions reduce the sums below 32 * 6 = 192. -/
theorem reduceOverflowsFrom192 : Obligations.ReduceOverflowsFrom192 := by
  unfold Obligations.ReduceOverflowsFrom192
  intro pre
  exact ⟨fun h => (reduceWithin_eq 5 pre).trans (if_pos h),
    fun h => (reduceWithin_eq 5 pre).trans (if_neg (Nat.not_lt.mpr h))⟩

/-- A serial number has the parity of its last digit (44_shift.md R181). -/
theorem serialNumber_mod_two (d : Digits) : serialNumber d % 2 = d.d4.val % 2 := by
  unfold serialNumber
  omega

/-- A non-zero key replaces the computed sum (44_shift.md R182). -/
theorem shiftBaseSum_of_key (c : Cfg) (ct : Fin 4) (hm : Fin c.hmCount) (d : Digits) {key : Word} (h : key ≠ 0) :
    shiftBaseSum c ct hm d key = key.toNat :=
  if_pos h

/-- The computed sum: the two table entries and the normalized serial number, with the correction for an odd one
(44_shift.md R180, R181). -/
theorem shiftBaseSum_zero (c : Cfg) (ct : Fin 4) (hm : Fin c.hmCount) (d : Digits) :
    shiftBaseSum c ct hm d 0 = (c.ctTable[ct]).toNat + (c.hmTable[hm]).toNat + snNorm c d ct +
      if serialNumber d % 2 = 1 then 4 else 0 := by
  have hkey : ¬(0 : Word) ≠ 0 := not_not_intro rfl
  simp only [shiftBaseSum, if_neg hkey, serialNumber_mod_two]
  split <;> rfl

/-- Settles O33: a key of 0 leaves the computed sum, with its 4 exactly for an odd serial number, and any other key
replaces it. -/
theorem shiftBaseSumOddCorrectionAndKey : Obligations.ShiftBaseSumOddCorrectionAndKey := by
  unfold Obligations.ShiftBaseSumOddCorrectionAndKey
  refine fun c ct hm d key => ⟨?_, ?_, shiftBaseSum_of_key c ct hm d⟩
  · rintro rfl heven
    rw [shiftBaseSum_zero, if_neg (by omega), Nat.add_zero]
  · rintro rfl hodd
    rw [shiftBaseSum_zero, if_pos hodd]

/-! ### The forward shift -/

/-- The forward shift never raises: the shift of a position has a character (44_shift.md R187). -/
theorem forwardShift_total (c : Cfg) (base : Nat) (e : Idx → Byte) : ∃ chars, forwardShift c base e = .ok chars :=
  fillM_total e fun i _ => charOf_shift_ok c (offsetAt c base i) (positionOf_le c (e i))

/-- What the forward shift writes at a field index (44_shift.md R187). -/
theorem forwardShift_moves {c : Cfg} {base : Nat} {e chars : Idx → Byte} (h : forwardShift c base e = .ok chars)
    {i : Idx} (hi : i ∈ fieldIdx) :
    charOf c (shift (offsetAt c base i) (positionOf c (e i))) = .ok (chars i) :=
  (fillM_eq_ok h).1 i hi

/-- The separators, the checksum and the shift base are no field indices (42_embed.md R141). -/
theorem not_mem_fieldIdx : ∀ i ∈ ([4, 7, 8, 9, 14, 17] : List Idx), i ∉ fieldIdx := by decide

/-- Settles O30: the shiftable indices are the field indices. -/
theorem forwardShiftMovesTheShiftableIndices : Obligations.ForwardShiftMovesTheShiftableIndices := by
  unfold Obligations.ForwardShiftMovesTheShiftableIndices
  intro c base e
  obtain ⟨chars, hshift⟩ := forwardShift_total c base e
  exact ⟨chars, hshift, fun i => ⟨forwardShift_moves hshift,
    fun hi => forwardShift_keeps hshift (not_mem_fieldIdx i hi)⟩⟩

/-! ### The inverse shift -/

/-- The raw position of a field index (44_shift.md R189). -/
theorem inverseShift_field (c : Cfg) (code : Idx → Byte) {i : Idx} (hi : i ∈ fieldIdx) :
    inverseShift c code i = unshift (offsetAt c (positionOf c (code 17)) i) (positionOf c (code i)) :=
  if_pos hi

/-- The checksum and the shift base are not unshifted (44_shift.md R189). -/
theorem inverseShift_unshifted (c : Cfg) (code : Idx → Byte) {i : Idx} (hi : i ∈ ([7, 8, 17] : List Idx)) :
    inverseShift c code i = positionOf c (code i) := by
  simp only [List.mem_cons, List.not_mem_nil, or_false] at hi
  rcases hi with rfl | rfl | rfl
  · rfl
  · rfl
  · exact inverseShift_seventeen c code

section
variable {raw raw' : Idx → Nat} (h : ∀ i : Idx, i ≠ 4 → i ≠ 9 → i ≠ 14 → raw i = raw' i)
include h

/-- No separator is a field index, so the verification does not read one (43_checksum.md R162). -/
theorem verify_eq_of_agree : verify raw = verify raw' := by
  have hsep : ∀ i ∈ fieldIdx, i ≠ 4 ∧ i ≠ 9 ∧ i ≠ 14 := by decide
  have hfield (i : Idx) (hi : i ∈ fieldIdx) : raw i = raw' i :=
    have ⟨h4, h9, h14⟩ := hsep i hi
    h i h4 h9 h14
  have hsum : verifySum raw = verifySum raw' := congrArg List.sum (List.map_congr_left hfield)
  simp (disch := decide) only [verify, hsum, h]

/-- No separator is the index of the code-type validation (00_scope.md R3; 46_commands.md R255). -/
theorem validateCodeType_eq_of_agree {c : Cfg} (hrange : c.InRange) :
    validateCodeType c raw = validateCodeType c raw' := by
  obtain ⟨-, -, ⟨h4, h9, h14⟩, -⟩ := hrange
  simp only [validateCodeType, h _ h4 h9 h14]

/-- No separator is the source of an output lane (46_commands.md R253, R254, R256). -/
theorem writeDecodeOutputs_eq_of_agree (sum : Nat) (s : State) :
    writeDecodeOutputs { raw := raw, sum := sum } s = writeDecodeOutputs { raw := raw', sum := sum } s := by
  simp (disch := decide) only [writeDecodeOutputs, maskedLane, rawLane, h]

end

/-- Settles O31: the index of each clause picks its branch of the inverse shift, and neither the verification, nor the
validation, nor an output lane reads a separator. -/
theorem inverseShiftRecoversTheRawArray : Obligations.InverseShiftRecoversTheRawArray := by
  unfold Obligations.InverseShiftRecoversTheRawArray
  refine ⟨fun c code i => ⟨inverseShift_field c code, inverseShift_unshifted c code⟩, fun c raw raw' h => ?_⟩
  exact ⟨verify_eq_of_agree h, validateCodeType_eq_of_agree h, writeDecodeOutputs_eq_of_agree h⟩

end Sys2Proof.Machine

/-! ## The serial normalizer (45_serial_normalizer.md R211-R216) -/

namespace Sys2Proof.Machine

/-! ### The place of the first non-zero digit -/

section
variable {d : Digits}

theorem firstSignificant_eq_one (h1 : d.d1 ≠ 0) : firstSignificant d = 1 :=
  if_pos h1

theorem firstSignificant_eq_two (h1 : d.d1 = 0) (h2 : d.d2 ≠ 0) : firstSignificant d = 2 := by
  rw [firstSignificant, if_neg (not_not_intro h1), if_pos h2]

theorem firstSignificant_eq_three (h1 : d.d1 = 0) (h2 : d.d2 = 0) (h3 : d.d3 ≠ 0) : firstSignificant d = 3 := by
  rw [firstSignificant, if_neg (not_not_intro h1), if_neg (not_not_intro h2), if_pos h3]

theorem firstSignificant_eq_four (h1 : d.d1 = 0) (h2 : d.d2 = 0) (h3 : d.d3 = 0) (h4 : d.d4 ≠ 0) :
    firstSignificant d = 4 := by
  rw [firstSignificant, if_neg (not_not_intro h1), if_neg (not_not_intro h2), if_neg (not_not_intro h3), if_pos h4]

/-- The serial 0000 has no significant digit (45_serial_normalizer.md R216). -/
theorem firstSignificant_eq_five (h1 : d.d1 = 0) (h2 : d.d2 = 0) (h3 : d.d3 = 0) (h4 : d.d4 = 0) :
    firstSignificant d = 5 := by
  rw [firstSignificant, if_neg (not_not_intro h1), if_neg (not_not_intro h2), if_neg (not_not_intro h3),
    if_neg (not_not_intro h4)]

end

/-! ### The normalized serial number -/

/-- The code type has no effect (45_serial_normalizer.md R214). -/
theorem snNorm_codeType (c : Cfg) (d : Digits) (ct ct' : Fin 4) : snNorm c d ct' = snNorm c d ct := rfl

/-- Settles O32: the sum is the model's table sum, and the place of the first non-zero digit decides which of its four
terms count. -/
theorem serialNormalizerSumsSignificantDigits : Obligations.SerialNormalizerSumsSignificantDigits := by
  unfold Obligations.SerialNormalizerSumsSignificantDigits
  refine fun c d ct => ⟨snNorm_codeType c d ct, snTableSum c d, rfl, ?_, ?_, ?_, ?_, ?_⟩
  · intro h1
    simp [snTableSum, firstSignificant_eq_one h1]
  · intro h1 h2
    simp [snTableSum, firstSignificant_eq_two h1 h2]
  · intro h1 h2 h3
    simp [snTableSum, firstSignificant_eq_three h1 h2 h3]
  · intro h1 h2 h3 h4
    simp [snTableSum, firstSignificant_eq_four h1 h2 h3 h4]
  · intro h1 h2 h3 h4
    simp [snTableSum, firstSignificant_eq_five h1 h2 h3 h4]

end Sys2Proof.Machine

/-! ## Commands: acceptance and completion (46_commands.md R230-R233) -/

namespace Sys2Proof.Machine

/-- Settles O18: NOP at any turn, and the host's write of it. -/
theorem nopChangesNothing : Obligations.NopChangesNothing := by
  unfold Obligations.NopChangesNothing
  exact ⟨fun r s => exec_of_op_zero (i := .nop r) rfl s, fun s w hw hop => step_of_nop_write hw hop⟩

/-- A command written while another is in flight is dropped (46_commands.md R231). -/
theorem exec_of_host_busy {i : Instr} {s : State} (hop : i.op ≠ 0) (hturn : s.turn = some .host)
    (hbusy : s.status.busy = true) : exec i s = .next (drop s) := by
  rw [exec_of_host hop hturn, issue, if_pos hbusy]

/-- A command written while none is in flight is accepted (46_commands.md R230). -/
theorem exec_of_host_idle {i : Instr} {s : State} (hop : i.op ≠ 0) (hturn : s.turn = some .host)
    (hbusy : s.status.busy = false) : exec i s = .next (accept i.op s) := by
  rw [exec_of_host hop hturn, issue, if_neg (by simp [hbusy])]

theorem encode_op_ne_zero (r : BitVec 30) : (Instr.encode r).op ≠ 0 := (by decide : (1 : BitVec 2) ≠ 0)

theorem decode_op_ne_zero (r : BitVec 30) : (Instr.decode r).op ≠ 0 := (by decide : (2 : BitVec 2) ≠ 0)

theorem reserved_op_ne_zero (r : BitVec 30) : (Instr.reserved r).op ≠ 0 := (by decide : (3 : BitVec 2) ≠ 0)

/-- Settles O19: the word decodes by its OP, an idle host's write of it is accepted, and its rule raises
ILLEGAL_COMMAND. -/
theorem reservedCompletesWithIllegalCommand : Obligations.ReservedCompletesWithIllegalCommand := by
  unfold Obligations.ReservedCompletesWithIllegalCommand
  refine ⟨fun w hw => ⟨w.extractLsb' 2 30, ?_⟩, fun r s hturn hbusy => ?_, fun r s hturn => ?_⟩
  · rw [decodeWord_of_low_bits hw, decodeOp_three]
  · exact exec_of_host_idle (reserved_op_ne_zero r) hturn hbusy
  · have hrule : outputsOf (.reserved r) s = .error .illegalCommand := rfl
    rw [exec_of_engine (reserved_op_ne_zero r) hturn, complete_error hrule]
    rfl

/-- Settles O13: a command at the host's turn is dropped or accepted by BUSY, and the engine's turn is the completion
of the command that the latch names. -/
theorem commandAcceptanceAndCompletion : Obligations.CommandAcceptanceAndCompletion := by
  unfold Obligations.CommandAcceptanceAndCompletion
  refine ⟨fun i s hturn => ⟨fun hop => exec_of_op_zero hop s, fun hop hbusy => exec_of_host_busy hop hturn hbusy,
    fun hop hbusy => exec_of_host_idle hop hturn hbusy⟩, fun s hturn => ⟨fun hbusy => ?_, fun hbusy hop => ?_⟩⟩
  · exact step_of_idle_engine hturn hbusy
  · have hengine : s.scheduled.turn = some .engine := by rw [State.scheduled_turn, hturn]
    have hlatched : (decodeOp s.latch.op 0).op ≠ 0 := by rwa [decodeOp_op]
    obtain ⟨hidle, hdone, -⟩ := complete_status (decodeOp s.latch.op 0) s.scheduled
    exact ⟨_, _, decodeOp_op _ _, exec_of_engine hlatched hengine, step_of_completion hturn hbusy hop, hidle, hdone⟩

end Sys2Proof.Machine

/-! ## DECODE writes the record (46_commands.md R250-R256) -/

namespace Sys2Proof.Machine

/-! ### Completions -/

/-- A completion that reports an error changes STATUS only (60_exceptions.md R272). -/
theorem complete_eq_of_err {outputs : State → Except ErrCode State} {s : State}
    (herr : (complete outputs s).status.err = true) :
    complete outputs s = { s with status := (complete outputs s).status } := by
  cases hout : outputs s with
  | ok t => simp [complete_ok hout] at herr
  | error e =>
    rw [complete_error hout]
    rfl

theorem exec_of_engine_err {i : Instr} {s t : State} (hop : i.op ≠ 0) (hturn : s.turn = some .engine)
    (h : exec i s = .next t) (herr : t.status.err = true) : t = { s with status := t.status } := by
  obtain rfl := Host.Outcome.next.inj ((exec_of_engine hop hturn).symm.trans h)
  exact complete_eq_of_err herr

/-- A completion of DECODE whose rule succeeds (46_commands.md R256). -/
theorem exec_decode_of_ok {s : State} {res : DecodeResult} (r : BitVec 30) (hturn : s.turn = some .engine)
    (h : decodeCode s.cfg (codeOf s.latch).char = .ok res) :
    exec (.decode r) s = .next (completeOk (writeDecodeOutputs res s)) := by
  have hrule : outputsOf (.decode r) s = .ok (writeDecodeOutputs res s) := by
    rw [outputsOf, decodeOutputs, h]
    rfl
  rw [exec_of_engine (decode_op_ne_zero r) hturn, complete_ok hrule]

/-! ### The rule -/

theorem verify_of_sum_eq {raw : Idx → Nat} (h : (fieldIdx.map raw).sum = 16 * raw 7 + raw 8) :
    verify raw = .ok (fieldIdx.map raw).sum :=
  if_neg (not_not_intro h)

theorem validateCodeType_of_mem {c : Cfg} {raw : Idx → Nat}
    (h : raw c.ctCheckIndex &&& c.ctCheckMask.toNat ∈ c.ctKnown) : validateCodeType c raw = .ok () :=
  if_pos h

/-- DECODE succeeds where the checksum and the code type pass (46_commands.md R250). -/
theorem decodeCode_of_checks {c : Cfg} {code : Idx → Byte} {raw : Idx → Nat} (hraw : raw = inverseShift c code)
    (hsum : (fieldIdx.map raw).sum = 16 * raw 7 + raw 8)
    (hcode : raw c.ctCheckIndex &&& c.ctCheckMask.toNat ∈ c.ctKnown) :
    decodeCode c code = .ok { raw := raw, sum := (fieldIdx.map raw).sum } := by
  rw [decodeCode, ← hraw, verify_of_sum_eq hsum, validateCodeType_of_mem hcode]
  rfl

/-! ### The lanes -/

/-- A position fits in a byte (10_state.md R36-R41). -/
theorem toNat_ofNat_byte {n : Nat} (h : n ≤ 31) : (BitVec.ofNat 8 n).toNat = n := by
  rw [BitVec.toNat_ofNat, Nat.mod_eq_of_lt (by omega)]

section
variable {raw : Idx → Nat} (hraw : ∀ i, raw i ≤ 31)
include hraw

/-- A raw position fits in its lane. -/
theorem toNat_rawLane (i : Idx) : (rawLane raw i).toNat = raw i := toNat_ofNat_byte (hraw i)

/-- A masked lane is the raw position under the mask (46_commands.md R253). -/
theorem toNat_maskedLane (c : Cfg) (i : Idx) : (maskedLane c raw i).toNat = raw i &&& (fieldMask c i).toNat := by
  rw [maskedLane, BitVec.toNat_and, toNat_rawLane hraw]

/-- The mask of a 2-bit field is a remainder (42_embed.md R144). -/
theorem toNat_maskedLane_two_bits {c : Cfg} {i : Idx} (hmask : fieldMask c i = 0x03) :
    (maskedLane c raw i).toNat = raw i % 4 := by
  rw [toNat_maskedLane hraw, hmask]
  exact Nat.and_two_pow_sub_one_eq_mod (raw i) 2

end

/-- A sum of positions fits in its field (10_state.md R40, R41). -/
theorem toNat_sumField {n : Nat} (h : n ≤ 403) : (BitVec.ofNat 16 n).toNat = n := by
  rw [BitVec.toNat_ofNat, Nat.mod_eq_of_lt (by omega)]

/-- Settles O39: the rule succeeds, and each lane of what it writes is a raw position, under its mask where it has
one. -/
theorem decodeWritesTheRecord : Obligations.DecodeWritesTheRecord := by
  unfold Obligations.DecodeWritesTheRecord
  refine ⟨fun r s code raw hturn hlatch hraw hsum hcode => ?_, fun r s t hturn h herr =>
    exec_of_engine_err (decode_op_ne_zero r) hturn h herr⟩
  have hrule := decodeCode_of_checks hraw hsum hcode
  have hle (i : Idx) : raw i ≤ 31 := hraw ▸ inverseShift_le s.cfg code i
  have hunshifted (i : Idx) (hi : i ∈ ([7, 8, 17] : List Idx)) : (rawLane raw i).toNat = positionOf s.cfg (code i) := by
    rw [toNat_rawLane hle, hraw, inverseShift_unshifted _ _ hi]
  refine ⟨_, exec_decode_of_ok r hturn (hlatch ▸ hrule), ?_⟩
  simp only [completeOk_dSerial, completeOk_dFields, completeOk_dMaterial, completeOk_dVersion, completeOk_dCheck,
    writeDecodeOutputs_dSerial, writeDecodeOutputs_dFields, writeDecodeOutputs_dMaterial, writeDecodeOutputs_dVersion,
    writeDecodeOutputs_dCheck, lane_word4_0, lane_word4_1, lane_word4_2, lane_word4_3]
  exact ⟨toNat_rawLane hle 0, toNat_rawLane hle 6, toNat_rawLane hle 12, toNat_rawLane hle 18,
    toNat_maskedLane hle s.cfg 1, toNat_maskedLane_two_bits hle rfl, toNat_maskedLane_two_bits hle rfl,
    toNat_maskedLane_two_bits hle rfl, toNat_rawLane hle 5, toNat_rawLane hle 10, toNat_rawLane hle 11,
    toNat_rawLane hle 16, toNat_maskedLane_two_bits hle rfl, hunshifted 17 (by decide), hunshifted 7 (by decide),
    hunshifted 8 (by decide), toNat_sumField (sum_fieldIdx_le hle), rfl⟩

end Sys2Proof.Machine

/-! ## ENCODE succeeds on the inputs that pass its checks (46_commands.md R240-R246) -/

namespace Sys2Proof.Machine

/-! ### The checks -/

theorem configCodeType_of_eq {c : Cfg} {l : Latch} (h : (lane l.fields 3).toNat = c.ctConfigId) :
    configCodeType c l = .ok c.ctConfigId :=
  if_pos h

theorem hardwareModel_of_eq {c : Cfg} {l : Latch} {hm : Fin c.hmCount} (h : (lane l.fields 0).toNat = hm) :
    hardwareModel c l = .ok hm := by
  rw [hardwareModel, dif_pos (h ▸ hm.isLt)]
  exact congrArg _ (Fin.ext h)

theorem digit_of_toNat_eq {b : Byte} {d : Fin 10} (h : b.toNat = d) : digit b = .ok d := by
  rw [digit, dif_pos (h ▸ d.isLt)]
  exact congrArg _ (Fin.ext h)

theorem serialDigits_of_serialIs {l : Latch} {d : Digits} (h : SerialIs l d) : serialDigits l = .ok d := by
  obtain ⟨h1, h2, h3, h4⟩ := h
  rw [serialDigits, digit_of_toNat_eq h1, digit_of_toNat_eq h2, digit_of_toNat_eq h3, digit_of_toNat_eq h4]
  rfl

/-! ### The positions of the working array -/

/-- The character of a position has its canonical value as its position (40_alphabet.md R103). -/
theorem positionOf_of_charOf {c : Cfg} {p : Nat} {b : Byte} (h : charOf c p = .ok b) : positionOf c b = canonAt c p := by
  by_cases hp : p < 35
  · rw [charOf_of_lt c hp] at h
    cases h
    rw [canonAt, dif_pos hp]
    rfl
  · rw [charOf_of_ge c (by omega)] at h
    cases h

/-- At a field index the seed character has the canonical value of its entry (41_seed.md R121). -/
theorem positionOf_seedSequence {c : Cfg} {d4 : Fin 10} {s : Idx → Byte} (h : seedSequence c d4 = .ok s) {i : Idx}
    (hi : i ∈ fieldIdx) : positionOf c (s i) = canonAt c c.seed[d4][i] := by
  have hsep : ∀ i ∈ fieldIdx, i ≠ 4 ∧ i ≠ 9 ∧ i ≠ 14 := by decide
  obtain ⟨h4, h9, h14⟩ := hsep i hi
  obtain ⟨row, hrow, hs⟩ := bind_eq_ok h
  cases hs
  rw [(setAt_separators row i).2 h4 h9 h14]
  exact positionOf_of_charOf ((fillM_eq_ok hrow).1 i (mem_allIdx i))

section
variable {c : Cfg} {d4 : Fin 10} {l : Latch} {s : Idx → Byte} (hseed : seedSequence c d4 = .ok s)
include hseed

/-- What ENCODE embeds at a field index (42_embed.md R147). -/
theorem embedPosition_seedSequence {i : Idx} (hi : i ∈ fieldIdx) :
    embedPosition c (s i) (rawValue l i) (fieldMask c i) = embeddedPosition c d4 l i := by
  rw [embedPosition, positionOf_seedSequence hseed hi, embeddedPosition]

/-- The embedding succeeds where every embedded position has a character (42_embed.md R145). -/
theorem embedAll_total (h : ∀ i ∈ fieldIdx, (embeddedPosition c d4 l i).toNat ≤ 34) :
    ∃ e, embedAll c s l = .ok e := by
  refine fillM_total s fun i hi => ?_
  have hle := h i hi
  rw [embed, embedPosition_seedSequence hseed hi]
  exact ⟨_, charOf_of_lt c (by omega)⟩

variable {e : Idx → Byte} (hembed : embedAll c s l = .ok e)
include hembed

/-- After the embedding, a field index has its work position (42_embed.md R145). -/
theorem positionOf_embedAll {i : Idx} (hi : i ∈ fieldIdx) : positionOf c (e i) = workPosition c d4 l i := by
  have hchar := (fillM_eq_ok hembed).1 i hi
  rw [embed, embedPosition_seedSequence hseed hi] at hchar
  exact positionOf_of_charOf hchar

/-- The compose sum is that of the work positions (43_checksum.md R160). -/
theorem composeSum_embedAll : composeSum c e = (fieldIdx.map (workPosition c d4 l)).sum :=
  congrArg List.sum (List.map_congr_left fun _ hi => positionOf_embedAll hseed hembed hi)

end

/-! ### The steps together -/

/-- A bind succeeds where both its parts do. -/
theorem exists_bind_ok {α β : Type} {x : Except ErrCode α} {f : α → Except ErrCode β} {a : α} (hx : x = .ok a)
    (hf : ∃ b, f a = .ok b) : ∃ b, x >>= f = .ok b := by
  subst hx
  exact hf

theorem seedSequence_total {c : Cfg} (h : c.SeedOk) (d4 : Fin 10) : ∃ s, seedSequence c d4 = .ok s :=
  ⟨_, seedSequence_of_charOf fun i => charOf_of_lt c (seed_entry_lt h d4 i)⟩

/-- A shift-base sum below 192 reduces to its remainder (44_shift.md R183). -/
theorem reduce_of_lt {pre : Nat} (h : pre < 192) : reduce pre = .ok (pre % 32) :=
  (reduceOverflowsFrom192 pre).1 h

theorem writeShiftBase_total (c : Cfg) {base : Nat} (h : base ≤ 31) (e : Idx → Byte) :
    ∃ e', writeShiftBase c base e = .ok e' :=
  fillM_total e fun _ _ => ⟨_, charOf_of_lt c (by omega)⟩

section
variable {c : Cfg} {l : Latch} {d : Digits} {hm : Fin c.hmCount} (hin : EncodeInputsOk c l d hm)
include hin

/-- ENCODE succeeds on every input that passes the checks and needs at most five subtractions (46_commands.md R247). -/
theorem encodeFields_total (hseed : c.SeedOk) (hpre : shiftBaseSum c c.ctConfigId hm d l.key < 192) :
    ∃ r, encodeFields c l = .ok r := by
  obtain ⟨s, hs⟩ := seedSequence_total hseed d.d4
  obtain ⟨e, he⟩ := embedAll_total hs hin.embedded
  obtain ⟨e1, he1⟩ := writeChecksum_total c (composeSum c e) e
  obtain ⟨e2, he2⟩ := writeShiftBase_total c (base := shiftBaseSum c c.ctConfigId hm d l.key % 32) (by omega) e1
  obtain ⟨chars, hchars⟩ := forwardShift_total c (shiftBaseSum c c.ctConfigId hm d l.key % 32) e2
  exact exists_bind_ok (configCodeType_of_eq hin.codeType) <| exists_bind_ok (serialDigits_of_serialIs hin.serial) <|
    exists_bind_ok (hardwareModel_of_eq hin.hardwareModel) <| exists_bind_ok hs <| exists_bind_ok he <|
    exists_bind_ok he1 <| exists_bind_ok (reduce_of_lt hpre) <| exists_bind_ok he2 <| exists_bind_ok hchars ⟨_, rfl⟩

variable {r : EncodeResult} (hr : encodeFields c l = .ok r)
include hr

/-- The steps behind a successful ENCODE of these inputs (46_commands.md R242-R246). -/
theorem encodeFields_steps : ∃ s e e1 e2, seedSequence c d.d4 = .ok s ∧ embedAll c s l = .ok e ∧
    r.sum = composeSum c e ∧ writeChecksum c r.sum e = .ok e1 ∧
    reduce (shiftBaseSum c c.ctConfigId hm d l.key) = .ok r.base ∧ writeShiftBase c r.base e1 = .ok e2 ∧
    forwardShift c r.base e2 = .ok r.chars := by
  obtain ⟨ct, d', hm', s, e, e1, e2, hct, hd, hhm, hsteps⟩ := encodeFields_eq_ok hr
  cases (configCodeType_of_eq hin.codeType).symm.trans hct
  cases (serialDigits_of_serialIs hin.serial).symm.trans hd
  cases (hardwareModel_of_eq hin.hardwareModel).symm.trans hhm
  exact ⟨s, e, e1, e2, hsteps⟩

theorem encodeFields_sum : r.sum = (fieldIdx.map (workPosition c d.d4 l)).sum := by
  obtain ⟨s, e, e1, e2, hseed, hembed, hsum, -⟩ := encodeFields_steps hin hr
  rw [hsum, composeSum_embedAll hseed hembed]

theorem encodeFields_base : reduce (shiftBaseSum c c.ctConfigId hm d l.key) = .ok r.base := by
  obtain ⟨_, _, _, _, -, -, -, -, hbase, -⟩ := encodeFields_steps hin hr
  exact hbase

/-- The code has the shifted work position at a field index (44_shift.md R187). -/
theorem encodeFields_field_char {i : Idx} (hi : i ∈ fieldIdx) :
    charOf c (shift (offsetAt c r.base i) (workPosition c d.d4 l i)) = .ok (r.chars i) := by
  have hother : ∀ i ∈ fieldIdx, i ∉ [17] ∧ i ≠ 7 ∧ i ≠ 8 := by decide
  obtain ⟨h17, h7, h8⟩ := hother i hi
  obtain ⟨s, e, e1, e2, hseed, hembed, -, hchecksum, -, hbase, hshift⟩ := encodeFields_steps hin hr
  have hkept : e2 i = e i := ((fillM_eq_ok hbase).2 i h17).trans ((writeChecksum_eq_ok hchecksum).2.2 i h7 h8)
  rw [← positionOf_embedAll hseed hembed hi, ← hkept]
  exact forwardShift_moves hshift hi

end

/-! ### The characters that are not shifted -/

/-- An offset of 0 does not move a position (44_shift.md R186). -/
theorem shift_zero {p : Nat} (h : p ≤ 31) : shift 0 p = p := by
  have hred : red 0 = 0 := rfl
  have hmask : p &&& 0xFF = p := and_0xFF (by omega)
  simp only [shift, hred, Nat.add_zero, hmask, if_neg (show ¬ p > 31 by omega)]

theorem highNibble_eq (sum : Nat) : highNibble sum = sum / 16 % 16 := by
  rw [highNibble, Nat.shiftRight_eq_div_pow]
  exact Nat.and_two_pow_sub_one_eq_mod (sum / 2 ^ 4) 4

theorem lowNibble_eq (sum : Nat) : lowNibble sum = sum % 16 := Nat.and_two_pow_sub_one_eq_mod sum 4

section
variable {c : Cfg} {l : Latch} {r : EncodeResult} (hr : encodeFields c l = .ok r)
include hr

/-- The code has the shift base at 17 (44_shift.md R184). -/
theorem encodeFields_base_char : charOf c r.base = .ok (r.chars 17) := by
  obtain ⟨_, _, _, _, _, _, _, -, -, -, -, -, -, -, -, hbase, hshift⟩ := encodeFields_eq_ok hr
  rw [forwardShift_keeps hshift (by decide)]
  exact (fillM_eq_ok hbase).1 17 (by decide)

/-- The code has the nibbles of the compose sum at 7 and 8 (43_checksum.md R161). -/
theorem encodeFields_checksum_chars :
    charOf c (r.sum / 16 % 16) = .ok (r.chars 7) ∧ charOf c (r.sum % 16) = .ok (r.chars 8) := by
  obtain ⟨_, _, _, _, _, e1, e2, -, -, -, -, -, -, hchecksum, -, hbase, hshift⟩ := encodeFields_eq_ok hr
  obtain ⟨hhigh, hlow, -⟩ := writeChecksum_eq_ok hchecksum
  have hkept {i : Idx} (hfield : i ∉ fieldIdx) (h17 : i ∉ [17]) : r.chars i = e1 i :=
    (forwardShift_keeps hshift hfield).trans ((fillM_eq_ok hbase).2 i h17)
  have hhigh_le := highNibble_le r.sum
  have hlow_le := lowNibble_le r.sum
  rw [shift_zero (by omega), highNibble_eq] at hhigh
  rw [shift_zero (by omega), lowNibble_eq] at hlow
  rw [hkept (i := 7) (by decide) (by decide), hkept (i := 8) (by decide) (by decide)]
  exact ⟨hhigh, hlow⟩

end

end Sys2Proof.Machine

/-! ## ENCODE writes the code (46_commands.md R247) -/

namespace Sys2Proof.Machine

/-! ### The bytes of the window outside the code -/

/-- A byte of the window reads the same where the register below it does (20_memory.md R61). -/
theorem windowByte_congr {a : Offset} {s t : State}
    (h : ∀ r : Reg, a &&& 0xFC = r.offset → readReg r t = readReg r s) : windowByte a t = windowByte a s := by
  have hread : busRead (a &&& 0xFC) t = busRead (a &&& 0xFC) s := by
    cases hr : Reg.ofOffset (a &&& 0xFC) with
    | none => rw [busRead_of_none hr, busRead_of_none hr]
    | some r =>
      have hoff := Reg.offset_of_ofOffset hr
      rw [hoff, busRead_offset, busRead_offset, h r hoff]
  rw [windowByte, hread, windowByte]

/-- An offset is a lane above the aligned offset below it. -/
theorem offset_eq_add_lane (a : Offset) : a = (a &&& 0xFC) + BitVec.ofNat 8 (a.toNat % 4) := by
  revert a
  decide

/-- The registers that hold the code (10_state.md R35). -/
def codeRegisters : List Reg := [.code0, .code1, .code2, .code3, .code4]

/-- Every byte of a code register is a character, but for the last one (20_memory.md R62). -/
theorem charOffset_of_code_lane : ∀ r ∈ codeRegisters, ∀ b < 4,
    (∃ i : Idx, r.offset + BitVec.ofNat 8 b = charOffset i) ∨ r.offset + BitVec.ofNat 8 b = 0x33 := by
  decide

/-- A byte that is no character and not 0x33 is in no code register. -/
theorem not_mem_codeRegisters {a : Offset} {r : Reg} (hchar : ∀ i : Idx, a ≠ charOffset i) (h33 : a ≠ 0x33)
    (hr : a &&& 0xFC = r.offset) : r ∉ codeRegisters := by
  intro hmem
  have ha := offset_eq_add_lane a
  rw [hr] at ha
  rcases charOffset_of_code_lane r hmem (a.toNat % 4) (Nat.mod_lt _ (by decide)) with ⟨i, hi⟩ | hi
  · exact hchar i (ha.trans hi)
  · exact h33 (ha.trans hi)

/-- A register that is neither STATUS, nor E_INFO, nor a code register reads the same after an ENCODE
(46_commands.md R247). -/
theorem readReg_writeEncodeOutputs {r : Reg} (hcode : r ∉ codeRegisters) (heInfo : r ≠ .eInfo) (hstatus : r ≠ .status)
    (res : EncodeResult) (s : State) : readReg r (completeOk (writeEncodeOutputs res s)) = readReg r s := by
  cases r with
  | status => exact absurd rfl hstatus
  | eInfo => exact absurd rfl heInfo
  | code0 | code1 | code2 | code3 | code4 => exact absurd (by decide) hcode
  | _ => rfl

/-- A byte of the window outside the code, E_INFO and STATUS reads the same after an ENCODE (46_commands.md R247). -/
theorem windowByte_writeEncodeOutputs {a : Offset} (hchar : ∀ i : Idx, a ≠ charOffset i)
    (heInfo : a &&& 0xFC ≠ Reg.eInfo.offset) (hstatus : a &&& 0xFC ≠ Reg.status.offset) (res : EncodeResult)
    (s : State) : windowByte a (completeOk (writeEncodeOutputs res s)) = windowByte a s := by
  by_cases h33 : a = 0x33
  · rw [h33, windowByte_reserved_code4, windowByte_reserved_code4]
  · refine windowByte_congr fun r hr => readReg_writeEncodeOutputs (not_mem_codeRegisters hchar h33 hr) ?_ ?_ res s
    · rintro rfl
      exact heInfo hr
    · rintro rfl
      exact hstatus hr

/-! ### The completion -/

/-- A completion of ENCODE whose rule succeeds (46_commands.md R247). -/
theorem exec_encode_of_ok {s : State} {res : EncodeResult} (r : BitVec 30) (hturn : s.turn = some .engine)
    (h : encodeFields s.cfg s.latch = .ok res) :
    exec (.encode r) s = .next (completeOk (writeEncodeOutputs res s)) := by
  have hrule : outputsOf (.encode r) s = .ok (writeEncodeOutputs res s) := by
    rw [outputsOf, encodeOutputs, h]
    rfl
  rw [exec_of_engine (encode_op_ne_zero r) hturn, complete_ok hrule]

/-- Settles O34: the rule succeeds, and each character, the sum and the base are those of its steps. -/
theorem encodeWritesTheCode : Obligations.EncodeWritesTheCode := by
  unfold Obligations.EncodeWritesTheCode
  refine ⟨fun r s d hm hturn hseed hin hpre sum base hsum hbase => ?_, fun r s t hturn h herr =>
    exec_of_engine_err (encode_op_ne_zero r) hturn h herr⟩
  obtain ⟨res, hres⟩ := encodeFields_total hin hseed hpre
  obtain ⟨hbase_le, hsum_le⟩ := encodeFields_range hres
  have hsum' : res.sum = sum := (encodeFields_sum hin hres).trans hsum.symm
  have hbase' : res.base = base := by
    have hreduce := encodeFields_base hin hres
    rw [reduce_of_lt hpre, ← hbase] at hreduce
    exact (Except.ok.inj hreduce).symm
  subst hsum' hbase'
  obtain ⟨hhigh, hlow⟩ := encodeFields_checksum_chars hres
  have hsep {i : Idx} (hi : i = 4 ∨ i = 9 ∨ i = 14) := encodeFields_separator hres hi
  refine ⟨_, exec_encode_of_ok r hturn hres, ?_⟩
  simp only [completeOk_code, completeOk_eInfo, writeEncodeOutputs_code, writeEncodeOutputs_eInfo, char_ofChars]
  exact ⟨fun i hi => encodeFields_field_char hin hres hi, hsep (by decide), hsep (by decide), hsep (by decide), hhigh,
    hlow, encodeFields_base_char hres, toNat_ofNat_byte hbase_le, toNat_sumField hsum_le, rfl,
    fun a hchar heInfo hstatus => windowByte_writeEncodeOutputs hchar heInfo hstatus res s,
    windowByte_reserved_code4 _⟩

end Sys2Proof.Machine

/-! ## Errors: what a completion with an error leaves (60_exceptions.md R271, R272, R275) -/

namespace Sys2Proof.Machine

/-! ### Completions with an error -/

/-- A completion whose rule raises an error reports its code and changes STATUS only (60_exceptions.md R271). -/
theorem exec_of_engine_error {i : Instr} {s : State} {e : ErrCode} (hop : i.op ≠ 0) (hturn : s.turn = some .engine)
    (h : outputsOf i s = .error e) : exec i s = .next { s with status := statusErr s.status e.code } := by
  rw [exec_of_engine hop hturn, complete_error h]
  rfl

/-- Behind a completion that reports an error stands a rule that raised it. -/
theorem outputsOf_error_of_err {i : Instr} {s t : State} (hop : i.op ≠ 0) (hturn : s.turn = some .engine)
    (h : exec i s = .next t) (herr : t.status.err = true) : ∃ e, outputsOf i s = .error e := by
  cases hrule : outputsOf i s with
  | error e => exact ⟨e, rfl⟩
  | ok u =>
    rw [exec_of_engine hop hturn, complete_ok hrule] at h
    cases h
    cases herr

/-- A register other than STATUS reads the same whatever STATUS holds. -/
theorem readReg_of_ne_status {r : Reg} (h : r ≠ .status) (s : State) (st : Status) :
    readReg r { s with status := st } = readReg r s := by
  cases r with
  | status => exact absurd rfl h
  | _ => rfl

/-- A byte of the window outside STATUS reads the same whatever STATUS holds. -/
theorem windowByte_of_ne_status {a : Offset} (h : a &&& 0xFC ≠ Reg.status.offset) (s : State) (st : Status) :
    windowByte a { s with status := st } = windowByte a s := by
  refine windowByte_congr fun r hr => readReg_of_ne_status ?_ s st
  rintro rfl
  exact h hr

/-- Settles O47: an error completion is that of a rule which raised an error, so it writes STATUS only. -/
theorem errorsWriteNoOutput : Obligations.ErrorsWriteNoOutput := by
  unfold Obligations.ErrorsWriteNoOutput
  intro i s t hturn hop h herr
  obtain ⟨e, hrule⟩ := outputsOf_error_of_err hop hturn h herr
  obtain rfl := Host.Outcome.next.inj ((exec_of_engine_error hop hturn hrule).symm.trans h)
  exact ⟨rfl, fun a ha => windowByte_of_ne_status ha s _⟩

/-- Settles O48: acceptance writes STATUS and the latch, and the completion with an error STATUS only. -/
theorem errorsArePrecise : Obligations.ErrorsArePrecise := by
  unfold Obligations.ErrorsArePrecise
  intro i s a u rest hturn hbusy hop haccept hcomplete herr
  obtain rfl := Host.Outcome.next.inj ((exec_of_host_idle hop hturn hbusy).symm.trans haccept)
  have hu := exec_of_engine_err hop (turn_of_schedule rfl) hcomplete herr
  have hlatch : u.latch = s.latchOf i.op := congrArg State.latch hu
  rw [hlatch]
  exact hu

end Sys2Proof.Machine

/-! ## The errors of DECODE and their order (60_exceptions.md R274) -/

namespace Sys2Proof.Machine

/-! ### Steps in sequence -/

/-- A step that raises an error ends the sequence with it (00_scope.md §5, `raise`). -/
theorem bind_of_error {α β : Type} {x : Except ErrCode α} {f : α → Except ErrCode β} {e : ErrCode} (hx : x = .error e) :
    x >>= f = .error e := by
  subst hx
  rfl

/-- After a step that succeeds, the sequence does what the rest does. -/
theorem bind_of_ok {α β : Type} {x : Except ErrCode α} {f : α → Except ErrCode β} {a : α} {y : Except ErrCode β}
    (hx : x = .ok a) (hf : f a = y) : x >>= f = y := by
  subst hx
  exact hf

/-! ### The rule -/

/-- The checksum is verified first, whatever the code type is (46_commands.md R250). -/
theorem decodeCode_of_sum_ne {c : Cfg} {code : Idx → Byte} {raw : Idx → Nat} (hraw : raw = inverseShift c code)
    (hsum : (fieldIdx.map raw).sum ≠ 16 * raw 7 + raw 8) : decodeCode c code = .error .checksumMismatch := by
  subst hraw
  exact bind_of_error (if_pos hsum)

/-- A code that verifies, but whose code type is not known, is INVALID_CODE_TYPE (46_commands.md R255). -/
theorem decodeCode_of_unknown_codeType {c : Cfg} {code : Idx → Byte} {raw : Idx → Nat}
    (hraw : raw = inverseShift c code) (hsum : (fieldIdx.map raw).sum = 16 * raw 7 + raw 8)
    (hcode : raw c.ctCheckIndex &&& c.ctCheckMask.toNat ∉ c.ctKnown) :
    decodeCode c code = .error .invalidCodeType := by
  subst hraw
  exact bind_of_ok (verify_of_sum_eq hsum) (bind_of_error (if_neg hcode))

/-- A completion of DECODE whose rule raises an error. -/
theorem exec_decode_of_error {s : State} {e : ErrCode} (r : BitVec 30) (hturn : s.turn = some .engine)
    (h : decodeCode s.cfg (codeOf s.latch).char = .error e) :
    exec (.decode r) s = .next { s with status := statusErr s.status e.code } :=
  exec_of_engine_error (decode_op_ne_zero r) hturn (bind_of_error h)

/-- Settles O40: the verification comes before the code-type validation, and each raises its own error. -/
theorem decodeErrorsInOrder : Obligations.DecodeErrorsInOrder := by
  unfold Obligations.DecodeErrorsInOrder
  intro r s raw hturn hraw
  exact ⟨fun hsum => exec_decode_of_error r hturn (decodeCode_of_sum_ne hraw hsum),
    fun hsum hcode => exec_decode_of_error r hturn (decodeCode_of_unknown_codeType hraw hsum hcode)⟩

end Sys2Proof.Machine

/-! ## The errors of ENCODE and their order (60_exceptions.md R273) -/

namespace Sys2Proof.Machine

/-! ### The checks that fail -/

theorem configCodeType_of_ne {c : Cfg} {l : Latch} (h : (lane l.fields 3).toNat ≠ c.ctConfigId) :
    configCodeType c l = .error .unimplementedCodeType :=
  if_neg h

theorem hardwareModel_of_ge {c : Cfg} {l : Latch} (h : c.hmCount ≤ (lane l.fields 0).toNat) :
    hardwareModel c l = .error .fieldRange :=
  dif_neg (Nat.not_lt.mpr h)

/-- A lane raises FIELD_RANGE or is a decimal digit (46_commands.md R241). -/
theorem digit_cases (b : Byte) : digit b = .error .fieldRange ∨ ∃ d : Fin 10, b.toNat = d ∧ digit b = .ok d := by
  by_cases h : b.toNat < 10
  · exact .inr ⟨⟨b.toNat, h⟩, rfl, dif_pos h⟩
  · exact .inl (dif_neg h)

/-- The serial lanes raise FIELD_RANGE or are decimal digits (46_commands.md R241). -/
theorem serialDigits_cases (l : Latch) :
    serialDigits l = .error .fieldRange ∨ ∃ d, SerialIs l d ∧ serialDigits l = .ok d := by
  rcases digit_cases (lane l.serial 0) with herr | ⟨d1, h1, hd1⟩
  · exact .inl (bind_of_error herr)
  rcases digit_cases (lane l.serial 1) with herr | ⟨d2, h2, hd2⟩
  · exact .inl (bind_of_ok hd1 (bind_of_error herr))
  rcases digit_cases (lane l.serial 2) with herr | ⟨d3, h3, hd3⟩
  · exact .inl (bind_of_ok hd1 (bind_of_ok hd2 (bind_of_error herr)))
  rcases digit_cases (lane l.serial 3) with herr | ⟨d4, h4, hd4⟩
  · exact .inl (bind_of_ok hd1 (bind_of_ok hd2 (bind_of_ok hd3 (bind_of_error herr))))
  have hserial : SerialIs l ⟨d1, d2, d3, d4⟩ := ⟨h1, h2, h3, h4⟩
  exact .inr ⟨_, hserial, serialDigits_of_serialIs hserial⟩

/-- No lane of a serial number of decimal digits is above 9. -/
theorem lane_le_of_serialIs {l : Latch} {d : Digits} (h : SerialIs l d) : ∀ k < 4, (lane l.serial k).toNat ≤ 9 := by
  obtain ⟨h1, h2, h3, h4⟩ := h
  intro k hk
  interval_cases k <;> omega

/-- An embedded position above 34 has no character (42_embed.md R145). -/
theorem embedAll_of_embeddedPosition_gt {c : Cfg} {d4 : Fin 10} {l : Latch} {s : Idx → Byte}
    (hseed : seedSequence c d4 = .ok s) (h : ∃ i ∈ fieldIdx, 34 < (embeddedPosition c d4 l i).toNat) :
    embedAll c s l = .error .fieldRange := by
  obtain ⟨i, hi, hgt⟩ := h
  cases hembed : embedAll c s l with
  | ok e =>
    have hchar := (fillM_eq_ok hembed).1 i hi
    rw [embed, embedPosition_seedSequence hseed hi, charOf_of_ge c (by omega)] at hchar
    cases hchar
  | error e =>
    obtain ⟨j, -, herr⟩ := fillM_eq_error hembed
    obtain ⟨rfl, -⟩ := charOf_error herr
    rfl

/-! ### The rule -/

section
variable {c : Cfg} {l : Latch}

/-- The code type is checked first, whatever the other inputs are (46_commands.md R240). -/
theorem encodeFields_of_codeType_ne (h : (lane l.fields 3).toNat ≠ c.ctConfigId) :
    encodeFields c l = .error .unimplementedCodeType :=
  bind_of_error (configCodeType_of_ne h)

variable (hcodeType : (lane l.fields 3).toNat = c.ctConfigId)
include hcodeType

/-- The range checks of ENCODE step 2 (46_commands.md R241). -/
theorem encodeFields_of_out_of_range
    (h : (∃ k < 4, 9 < (lane l.serial k).toNat) ∨ c.hmCount ≤ (lane l.fields 0).toNat) :
    encodeFields c l = .error .fieldRange := by
  refine bind_of_ok (configCodeType_of_eq hcodeType) ?_
  rcases serialDigits_cases l with herr | ⟨d, hserial, hd⟩
  · exact bind_of_error herr
  · have hmodel : c.hmCount ≤ (lane l.fields 0).toNat :=
      h.resolve_left fun ⟨k, hk, hgt⟩ => absurd (lane_le_of_serialIs hserial k hk) (Nat.not_le.mpr hgt)
    exact bind_of_ok hd (bind_of_error (hardwareModel_of_ge hmodel))

variable {d : Digits} {hm : Fin c.hmCount} (hserial : SerialIs l d) (hmodel : (lane l.fields 0).toNat = hm)
  (hseed : c.SeedOk)
include hserial hmodel hseed

/-- Inputs that pass the checks and have an embedded position above 34 (42_embed.md R145). -/
theorem encodeFields_of_embeddedPosition_gt (h : ∃ i ∈ fieldIdx, 34 < (embeddedPosition c d.d4 l i).toNat) :
    encodeFields c l = .error .fieldRange := by
  obtain ⟨s, hs⟩ := seedSequence_total hseed d.d4
  exact bind_of_ok (configCodeType_of_eq hcodeType) <| bind_of_ok (serialDigits_of_serialIs hserial) <|
    bind_of_ok (hardwareModel_of_eq hmodel) <| bind_of_ok hs <| bind_of_error (embedAll_of_embeddedPosition_gt hs h)

end

/-- Inputs that pass the checks and need more than five subtractions (44_shift.md R183). -/
theorem encodeFields_of_overflow {c : Cfg} {l : Latch} {d : Digits} {hm : Fin c.hmCount} (hseed : c.SeedOk)
    (hin : EncodeInputsOk c l d hm) (h : 192 ≤ shiftBaseSum c c.ctConfigId hm d l.key) :
    encodeFields c l = .error .shiftBaseOverflow := by
  obtain ⟨s, hs⟩ := seedSequence_total hseed d.d4
  obtain ⟨e, he⟩ := embedAll_total hs hin.embedded
  obtain ⟨e1, he1⟩ := writeChecksum_total c (composeSum c e) e
  have hreduce : reduce (shiftBaseSum c c.ctConfigId hm d l.key) = .error .shiftBaseOverflow :=
    (reduceOverflowsFrom192 _).2 h
  exact bind_of_ok (configCodeType_of_eq hin.codeType) <| bind_of_ok (serialDigits_of_serialIs hin.serial) <|
    bind_of_ok (hardwareModel_of_eq hin.hardwareModel) <| bind_of_ok hs <| bind_of_ok he <| bind_of_ok he1 <|
    bind_of_error hreduce

/-- A completion of ENCODE whose rule raises an error. -/
theorem exec_encode_of_error {s : State} {e : ErrCode} (r : BitVec 30) (hturn : s.turn = some .engine)
    (h : encodeFields s.cfg s.latch = .error e) :
    exec (.encode r) s = .next { s with status := statusErr s.status e.code } :=
  exec_of_engine_error (encode_op_ne_zero r) hturn (bind_of_error h)

/-- Settles O35: the checks come in this order, and each error is raised by the first step that fails. -/
theorem encodeErrorsInOrder : Obligations.EncodeErrorsInOrder := by
  unfold Obligations.EncodeErrorsInOrder
  intro r s hturn
  refine ⟨fun hne => ?_, fun hcodeType hrange => ?_, fun d hm hcodeType hserial hmodel hseed hgt => ?_,
    fun d hm hseed hin hoverflow => ?_⟩
  · exact exec_encode_of_error r hturn (encodeFields_of_codeType_ne hne)
  · exact exec_encode_of_error r hturn (encodeFields_of_out_of_range hcodeType hrange)
  · exact exec_encode_of_error r hturn (encodeFields_of_embeddedPosition_gt hcodeType hserial hmodel hseed hgt)
  · exact exec_encode_of_error r hturn (encodeFields_of_overflow hseed hin hoverflow)

end Sys2Proof.Machine

/-! ## The command word: decode and encode (30_encoding.md R80, R81) -/

namespace Sys2Proof

theorem decodeOp_op_ignored (i : Instr) : decodeOp i.op i.ignored = i := by cases i <;> rfl

/-- The two fields of a command word, read back (30_encoding.md R80). -/
theorem decodeWord_encode (i : Instr) : decodeWord (encode i) = i := by
  have hop : (encode i).extractLsb' 0 2 = i.op := BitVec.extractLsb'_append_eq_right
  have hignored : (encode i).extractLsb' 2 30 = i.ignored := BitVec.extractLsb'_append_eq_left
  rw [decodeWord_of_low_bits hop, hignored, decodeOp_op_ignored]

/-- The bytes of a word, lowest address first, make the word again (20_memory.md R61). -/
theorem decodeBytes_encodeBytes (i : Instr) (rest : List Byte) :
    decodeBytes (encodeBytes i ++ rest) = .ok (i, rest) := by
  have hword : decodeBytes (encodeBytes i ++ rest) = .ok (decodeWord (Machine.word4 (Machine.lane (encode i) 3)
    (Machine.lane (encode i) 2) (Machine.lane (encode i) 1) (Machine.lane (encode i) 0)), rest) := rfl
  rw [hword, Machine.word4_lanes, decodeWord_encode]

theorem encode_decodeWord (w : Word) : encode (decodeWord w) = w := by
  apply BitVec.eq_of_getLsbD_eq
  intro k hk
  rw [Machine.getLsbD_encode, decodeWord, Machine.decodeOp_op, Machine.decodeOp_ignored]
  by_cases hlow : k < 2
  · simp [hlow]
  · simp [hlow, show k - 2 < 30 by omega, show 2 + (k - 2) = k by omega]

/-- Settles O3: the fields of a word are read back where they were put, and its bytes make it again. -/
theorem decodeUndoesEncode : Obligations.DecodeUndoesEncode := by
  unfold Obligations.DecodeUndoesEncode
  exact ⟨fun i _ => ⟨decodeWord_encode i, decodeBytes_encodeBytes i⟩, encode_decodeWord⟩

/-- Settles O2: each word is evaluated. -/
theorem writtenOutWordsDecodeToTheirCommands : Obligations.WrittenOutWordsDecodeToTheirCommands := by
  unfold Obligations.WrittenOutWordsDecodeToTheirCommands
  decide

end Sys2Proof

/-! ## What every step keeps, and the host's turns (10_state.md R46; 30_encoding.md R84, R85) -/

namespace Sys2Proof.Machine

/-! ### The configuration -/

/-- The rule of a command writes outputs only (46_commands.md R247, R256). -/
theorem outputsOf_eq {i : Instr} {s t : State} (h : outputsOf i s = .ok t) :
    t = { s with
      code := t.code, dSerial := t.dSerial, dFields := t.dFields, dMaterial := t.dMaterial, dVersion := t.dVersion
      dCheck := t.dCheck, eInfo := t.eInfo } := by
  cases i with
  | nop r =>
    cases h
    rfl
  | encode r =>
    obtain ⟨res, -, rfl⟩ := encodeOutputs_eq_ok h
    rfl
  | decode r =>
    obtain ⟨res, -, rfl⟩ := decodeOutputs_eq_ok h
    rfl
  | reserved r => cases h

/-- No command changes the configuration (00_scope.md R6). -/
theorem exec_cfg {i : Instr} {s t : State} (h : exec i s = .next t) : t.cfg = s.cfg := by
  rcases exec_cases i s with ⟨_, h'⟩ | ⟨_, _, h'⟩ | ⟨_, _, h'⟩ <;> obtain rfl := Host.Outcome.next.inj (h'.symm.trans h)
  · rfl
  · cases hrule : outputsOf i s with
    | error e => rw [complete_error hrule, completeErr_cfg]
    | ok u => rw [complete_ok hrule, outputsOf_eq hrule, completeOk_cfg]
  · rcases issue_cases i.op s with ⟨_, h⟩ | ⟨_, h⟩ <;> rw [h] <;> rfl

theorem busWrite_cfg {off : Offset} {v : Word} {s t : State} (h : busWrite off v s = .next t) : t.cfg = s.cfg := by
  rcases busWrite_cases off v s with ⟨_, h'⟩ | ⟨r, _, _, h'⟩ | ⟨_, h'⟩ <;> rw [h'] at h
  · exact exec_cfg h
  · cases h
    exact writeReg_cfg r v s
  · cases h
    rfl

/-- No step changes the configuration (70_reset_and_hazards.md R301). -/
theorem step_cfg {s t : State} (h : step s = .next t) : t.cfg = s.cfg := by
  rcases step_cases h with ⟨_, _, rfl⟩ | ⟨_, _, _, rfl⟩ | ⟨_, rfl⟩ | ⟨off, v, u, _, _, _, hu, rfl⟩ | ⟨_, _, rfl⟩ |
    ⟨u, _, _, hu, rfl⟩ | ⟨_, rfl⟩
  · rfl
  · rfl
  · rfl
  · exact (busWrite_cfg hu :)
  · rfl
  · exact (exec_cfg hu :)
  · rfl

/-- Settles O7: by the cases of a step. -/
theorem noStepChangesTheConfiguration : Obligations.NoStepChangesTheConfiguration := by
  unfold Obligations.NoStepChangesTheConfiguration
  exact ⟨fun _ _ h => step_cfg h, resetBlock_cfg⟩

/-! ### Commands as a step runs them -/

/-- A command placed in front is what the host writes next (10_state.md R21). -/
theorem hostWrites_withFetchWord (s : State) (w : Word) : HostWrites (s.withFetchWord 32 w.toNat) .cmd w := by
  have hword : BitVec.ofNat 32 (w.toNat % 2 ^ 32) = w := by
    rw [Nat.mod_eq_of_lt w.isLt, BitVec.ofNat_toNat, BitVec.setWidth_eq]
  refine ⟨rfl, ?_⟩
  rw [State.withFetchWord, hword]
  rfl

/-- The host's write of a command word is the command (10_state.md R23). -/
theorem step_of_cmd_write {s : State} {w : Word} (h : HostWrites s .cmd w) :
    step s = mapNext retire (exec (decodeWord w) s.scheduled) := by
  rw [step_of_hostWrites h, busWrite_cmd]

/-- Settles O5: the host's write, the engine's turn, and the command placed in front. -/
theorem stepRunsTheDecodedCommand : Obligations.StepRunsTheDecodedCommand := by
  unfold Obligations.StepRunsTheDecodedCommand
  refine ⟨fun s w h => step_of_cmd_write h, fun s hturn hbusy => ?_,
    fun s => ⟨rfl, fun a ha => ⟨nextTurn_of_turn ha, scheduled_of_turn ha⟩⟩, fun s w => ?_⟩
  · rw [step_of_engine hturn, engineTurn, State.scheduled_status, if_pos hbusy, State.scheduled_latch]
  · rw [step_of_cmd_write (hostWrites_withFetchWord s w), scheduled_of_turn (a := .host) rfl]

/-! ### Writes and polls of the host -/

/-- A host's write to a register other than CMD (20_memory.md R65). -/
theorem step_of_register_write {s : State} {r : Reg} {v : Word} (h : HostWrites s r v) (hr : r ≠ .cmd) :
    step s = .next (retire (writeReg r v s)) := by
  rw [step_of_hostWrites h, busWrite_offset hr, mapNext_next]
  cases r <;> rfl

/-- A turn of `wait` reads STATUS and goes on once bit 0 of the value is 0 (30_encoding.md R85). -/
theorem step_of_wait {s : State} {p : List HostOp} (hturn : s.nextTurn = .host) (hp : s.program = .wait :: p) :
    step s = .next { s with
      program := if s.status.busy then .wait :: p else p
      observed := { off := 0x04, value := s.status.word, expected := none } :: s.observed
      schedule := s.schedule.tail } := by
  have hread : busRead Reg.status.offset s = s.status.word := busRead_offset .status s
  have hoffset : (0x04 : Offset) = Reg.status.offset := rfl
  have hbit : s.status.word.getLsbD 0 = s.status.busy := by rw [getLsbD_statusWord, if_pos rfl]
  have hhost : hostTurn s.scheduled = .next (waitStep s.scheduled) := by
    simp only [hostTurn, State.scheduled_program, hp]
  rw [step_of_host hturn, hhost, hoffset, waitStep, busRead_scheduled, hread, hbit]
  cases hbusy : s.status.busy <;> simp [endTurn, retire, observe, hread, hp]

/-- Settles O58: each line stands for its accesses, and a turn of `wait` is a poll. -/
theorem hostNotationExpandsToAccesses : Obligations.HostNotationExpandsToAccesses := by
  unfold Obligations.HostNotationExpandsToAccesses
  exact ⟨fun _ => rfl, fun _ => rfl, fun _ _ => ⟨rfl, rfl, rfl⟩, rfl, rfl, rfl, rfl, rfl,
    fun _ _ _ _ => ⟨rfl, rfl, rfl⟩, fun _ => rfl, fun s p hturn hp => step_of_wait hturn hp⟩

/-- Settles O56: a write to STATUS, and what a completion leaves in STATUS. -/
theorem statusClearsAtOnceAndIsSetAgain : Obligations.StatusClearsAtOnceAndIsSetAgain := by
  unfold Obligations.StatusClearsAtOnceAndIsSetAgain
  refine ⟨fun s v h => ⟨_, step_of_status_write h, rfl, rfl, rfl, fun hbit => if_pos hbit⟩, fun s hturn hbusy hop => ?_⟩
  have hstep := step_of_completion hturn hbusy hop
  obtain ⟨-, hdone, -⟩ := complete_status (decodeOp s.latch.op 0) s.scheduled
  exact ⟨_, hstep, hdone, fun h3 => (completion_reports_reserved hstep hturn hbusy h3).1⟩

/-! ### Reset (70_reset_and_hazards.md R300, R302) -/

/-- What a reset leaves of the block: every register 0, whatever the latch, the host and the schedule are. -/
def ResetRegisters (t : State) : Prop :=
  t = { State.resetWith t.cfg with
    latch := t.latch, program := t.program, observed := t.observed, schedule := t.schedule, resets := t.resets }

theorem resetRegisters_resetWith (c : Cfg) : ResetRegisters (State.resetWith c) := rfl

/-- A reset turn leaves the registers of the first reset (70_reset_and_hazards.md R302). -/
theorem resetRegisters_of_step {s t : State} (hturn : s.nextTurn = .reset) (h : step s = .next t) :
    ResetRegisters t := by
  obtain rfl := Host.Outcome.next.inj ((step_of_reset hturn).symm.trans h)
  rfl

/-- The registers of the first reset read 0 all over the window. -/
theorem busRead_of_resetRegisters {t : State} (h : ResetRegisters t) (off : Offset) : busRead off t = 0 := by
  have hread : busRead off t = busRead off (State.resetWith t.cfg) := by
    cases hr : Reg.ofOffset off with
    | none => rw [busRead_of_none hr, busRead_of_none hr]
    | some r =>
      rw [Reg.offset_of_ofOffset hr, busRead_offset, busRead_offset, h]
      cases r <;> rfl
  rw [hread, busRead_resetWith]

/-- Settles O51: a reset turn has no condition, and the registers of every reset are those of the first. -/
theorem resetClearsEveryRegister : Obligations.ResetClearsEveryRegister := by
  unfold Obligations.ResetClearsEveryRegister
  refine ⟨fun s hturn => ⟨_, step_of_reset hturn⟩, fun t ht => ?_⟩
  have hreset : ResetRegisters t := by
    rcases ht with ⟨c, rfl⟩ | ⟨s, hturn, h⟩
    · exact resetRegisters_resetWith c
    · exact resetRegisters_of_step hturn h
  have hchar (i : Idx) : t.code.char i = 0 := by
    rw [← windowByte_charOffset, windowByte, busRead_of_resetRegisters hreset]
    exact BitVec.extractLsb'_zero
  have hword : t.status.word = 0 := (busRead_offset .status t).symm.trans (busRead_of_resetRegisters hreset _)
  have hread := busRead_of_resetRegisters hreset
  unfold ResetRegisters at hreset
  refine ⟨?_, hword, ?_, ?_, ?_, ?_, ?_, hchar, ?_, ?_, ?_, ?_, ?_, ?_, hread⟩ <;> rw [hreset] <;> rfl

end Sys2Proof.Machine

/-! ## What a step does to the outputs (70_reset_and_hazards.md R304) -/

namespace Sys2Proof.Machine

/-- The outputs that only a completion or a reset writes: D_* and E_INFO (10_state.md R36-R41). -/
def SameOutputs (s t : State) : Prop := SameDecodeOutputs s t ∧ t.eInfo = s.eInfo

theorem sameOutputs_refl (s : State) : SameOutputs s s := ⟨⟨rfl, rfl, rfl, rfl, rfl⟩, rfl⟩

/-- A command at the host's turn writes STATUS and the latch only (46_commands.md R230, R231). -/
theorem exec_host_outputs {i : Instr} {s t : State} (hturn : s.turn = some .host) (h : exec i s = .next t) :
    SameOutputs s t ∧ t.code = s.code := by
  by_cases hop : i.op = 0
  · obtain rfl := Host.Outcome.next.inj ((exec_of_op_zero hop s).symm.trans h)
    exact ⟨sameOutputs_refl s, rfl⟩
  · obtain rfl := Host.Outcome.next.inj ((exec_of_host hop hturn).symm.trans h)
    rcases issue_cases i.op s with ⟨_, hissue⟩ | ⟨_, hissue⟩ <;> rw [hissue]
    · exact ⟨sameOutputs_refl s, drop_code s⟩
    · exact ⟨sameOutputs_refl s, accept_code i.op s⟩

/-- A write to a register that holds no code leaves the code. -/
theorem writeReg_code_of_not_mem {r : Reg} (h : r ∉ codeRegisters) (v : Word) (s : State) :
    (writeReg r v s).code = s.code := by
  cases r with
  | code0 | code1 | code2 | code3 | code4 => exact absurd (by decide) h
  | _ => rfl

/-- A host's write changes no output but the code, and the code at a code register only. -/
theorem busWrite_host_outputs {off : Offset} {v : Word} {s t : State} (hturn : s.turn = some .host)
    (h : busWrite off v s = .next t) :
    SameOutputs s t ∧ (t.code ≠ s.code → ∃ r ∈ codeRegisters, off = r.offset) := by
  rcases busWrite_cases off v s with ⟨_, h'⟩ | ⟨r, _, hoff, h'⟩ | ⟨_, h'⟩ <;> rw [h'] at h
  · obtain ⟨hout, hcode⟩ := exec_host_outputs hturn h
    exact ⟨hout, fun hne => absurd hcode hne⟩
  · cases h
    refine ⟨by simp [SameOutputs, SameDecodeOutputs], fun hne => ⟨r, ?_, hoff⟩⟩
    by_contra hr
    exact hne (writeReg_code_of_not_mem hr v s)
  · cases h
    exact ⟨sameOutputs_refl s, fun hne => absurd rfl hne⟩

/-- What a step can do to the outputs other than the code. -/
inductive OutputStep (s t : State) : Prop where
  /-- They stay. -/
  | kept (hout : SameOutputs s t)
  /-- The completion of a command whose rule succeeds (60_exceptions.md R271). -/
  | written (i : Instr) (u : State) (hrule : outputsOf i s.scheduled = .ok u) (ht : t = endTurn (completeOk u))
  /-- A reset (70_reset_and_hazards.md R300). -/
  | reset (ht : ResetRegisters t)

/-- At the host's turn the outputs stay, and the code changes at a write to a code register only. -/
theorem host_step_outputs {s t : State} (hturn : s.nextTurn = .host) (h : step s = .next t) :
    SameOutputs s t ∧ (t.code ≠ s.code → ∃ r ∈ codeRegisters, ∃ v, HostWrites s r v) := by
  rcases step_cases h with ⟨_, _, rfl⟩ | ⟨_, _, _, rfl⟩ | ⟨_, rfl⟩ | ⟨off, v, u, _, hp, _, hu, rfl⟩ | ⟨hne, _⟩ |
    ⟨_, hne, _⟩ | ⟨hne, _⟩
  · exact ⟨sameOutputs_refl s, fun hne => absurd rfl hne⟩
  · exact ⟨sameOutputs_refl s, fun hne => absurd rfl hne⟩
  · exact ⟨sameOutputs_refl s, fun hne => absurd rfl hne⟩
  · obtain ⟨hout, hcode⟩ := busWrite_host_outputs (by rw [State.scheduled_turn, hturn]) hu
    refine ⟨hout, fun hne => ?_⟩
    obtain ⟨r, hr, rfl⟩ := hcode hne
    exact ⟨r, hr, v, hturn, hp⟩
  · exact absurd (hturn.symm.trans hne) (by decide)
  · exact absurd (hturn.symm.trans hne) (by decide)
  · exact absurd (hturn.symm.trans hne) (by decide)

/-- The engine's run of the latched command writes outputs only if the rule succeeds. -/
theorem outputStep_of_exec {s u : State} {i : Instr} (hturn : s.nextTurn = .engine)
    (hu : exec i s.scheduled = .next u) : OutputStep s (endTurn u) := by
  by_cases hop : i.op = 0
  · obtain rfl := Host.Outcome.next.inj ((exec_of_op_zero hop _).symm.trans hu)
    exact .kept (sameOutputs_refl s)
  · have hengine : s.scheduled.turn = some .engine := by rw [State.scheduled_turn, hturn]
    obtain rfl := Host.Outcome.next.inj ((exec_of_engine hop hengine).symm.trans hu)
    cases hrule : outputsOf i s.scheduled with
    | ok u => exact .written i u hrule (by rw [complete_ok hrule])
    | error e =>
      rw [complete_error hrule]
      exact .kept (sameOutputs_refl s)

/-- Every step that answers is one of those. -/
theorem outputStep_of_step {s t : State} (h : step s = .next t) : OutputStep s t := by
  cases hturn : s.nextTurn with
  | host => exact .kept (host_step_outputs hturn h).1
  | reset => exact .reset (resetRegisters_of_step hturn h)
  | engine =>
    rw [step_of_engine hturn, engineTurn] at h
    split at h
    · obtain ⟨u, hu, rfl⟩ := mapNext_eq_next h
      exact outputStep_of_exec hturn hu
    · cases h
      exact .kept (sameOutputs_refl s)

/-- Settles O52: neither the engine's turn nor a reset is the host's turn. -/
theorem outputsChangeOnlyAtCompletionOrReset : Obligations.OutputsChangeOnlyAtCompletionOrReset := by
  unfold Obligations.OutputsChangeOnlyAtCompletionOrReset
  intro s t h hengine hreset
  have hturn : s.nextTurn = .host := by
    cases hnext : s.nextTurn with
    | host => rfl
    | engine => exact absurd hnext hengine
    | reset => exact absurd hnext hreset
  obtain ⟨⟨hdecode, heInfo⟩, hcode⟩ := host_step_outputs hturn h
  exact ⟨hdecode, heInfo, hcode⟩

end Sys2Proof.Machine

/-! ## The invariant of the machine (10_state.md section 3; 60_exceptions.md section 1) -/

namespace Sys2Proof.Machine

/-! ### STATUS and the latch -/

/-- A report has ERRCODE 0 without an error and one of 1..6 with one (60_exceptions.md R270). -/
theorem errcode_range_of_reports {α : Type} {st : Status} {x : Except ErrCode α} (h : Reports st x) :
    (st.err = false → st.errcode = 0) ∧ (st.err = true → 1 ≤ st.errcode.toNat ∧ st.errcode.toNat ≤ 6) := by
  cases x with
  | ok a =>
    obtain ⟨herr, hcode⟩ := h
    simp [herr, hcode]
  | error e =>
    obtain ⟨herr, hcode⟩ := h
    simp [herr, hcode, e.code_range]

/-- Clearing bits of STATUS keeps it consistent: ERRCODE goes with ERR (10_state.md R27). -/
theorem statusOk_writeOneToClear {st : Status} (h : StatusOk st) (v : Word) : StatusOk (st.writeOneToClear v) := by
  obtain ⟨hclear, hset, hbusy⟩ := h
  have hidle (h : st.busy = true) : (st.done && !v.getLsbD 1) = false ∧ (st.err && !v.getLsbD 2) = false := by
    obtain ⟨hdone, herr⟩ := hbusy h
    rw [hdone, herr]
    exact ⟨rfl, rfl⟩
  cases hbit : v.getLsbD 2 with
  | true =>
    have herr : (st.writeOneToClear v).err = false := by
      simp only [Status.writeOneToClear, hbit, Bool.not_true, Bool.and_false]
    exact ⟨fun _ => if_pos hbit, fun h => absurd (herr.symm.trans h) Bool.false_ne_true, hidle⟩
  | false =>
    have herr : (st.writeOneToClear v).err = st.err := by
      simp only [Status.writeOneToClear, hbit, Bool.not_false, Bool.and_true]
    have hcode : (st.writeOneToClear v).errcode = st.errcode := if_neg (by rw [hbit]; decide)
    exact ⟨fun h => hcode.trans (hclear (herr.symm.trans h)), fun h => hcode ▸ hset (herr.symm.trans h), hidle⟩

/-- Every step keeps STATUS consistent and the OP of a command in flight in {1, 2, 3}. -/
theorem step_keeps_status {s t : State} (h : step s = .next t) (hst : StatusOk s.status)
    (hop : s.status.busy = true → s.latch.op ≠ 0) :
    StatusOk t.status ∧ (t.status.busy = true → t.latch.op ≠ 0) := by
  cases statusStep_of_step h with
  | kept hstatus hlatch =>
    rw [hstatus, hlatch]
    exact ⟨hst, hop⟩
  | dropped w hw hne hbusy ht =>
    subst ht
    exact ⟨hst, hop⟩
  | accepted w hw hne hbusy ht =>
    subst ht
    exact ⟨by simp [StatusOk], fun _ => hne⟩
  | cleared v hv ht =>
    subst ht
    exact ⟨statusOk_writeOneToClear hst v, hop⟩
  | completed hturn hbusy hne ht =>
    obtain ⟨hidle, -, -⟩ := complete_status (decodeOp s.latch.op 0) s.scheduled
    obtain ⟨hclear, hset⟩ := errcode_range_of_reports (completion_reports h hturn hbusy hne)
    subst ht
    have hnot {p : Prop} (hbusy : (complete (outputsOf (decodeOp s.latch.op 0)) s.scheduled).status.busy = true) : p :=
      absurd (hidle.symm.trans hbusy) (by decide)
    exact ⟨⟨hclear, hset, hnot⟩, hnot⟩
  | reset hturn hstatus =>
    rw [hstatus]
    exact ⟨by decide, fun hbusy => by cases hbusy⟩

/-! ### The outputs -/

theorem outputsOk_of_same {s t : State} (h : SameOutputs s t) (hcfg : t.cfg = s.cfg) (hs : OutputsOk s) :
    OutputsOk t := by
  obtain ⟨⟨h1, h2, h3, h4, h5⟩, h6⟩ := h
  unfold OutputsOk
  rw [h1, h2, h3, h4, h5, h6, hcfg]
  exact hs

theorem outputsOk_resetWith (c : Cfg) : OutputsOk (State.resetWith c) := by
  simp [OutputsOk, State.resetWith, lane]

/-- The registers of every reset are in range (70_reset_and_hazards.md R300). -/
theorem outputsOk_of_resetRegisters {t : State} (h : ResetRegisters t) : OutputsOk t := by
  refine outputsOk_of_same (s := State.resetWith t.cfg) ?_ rfl (outputsOk_resetWith t.cfg)
  rw [h]
  exact sameOutputs_refl (State.resetWith t.cfg)

/-- What a successful ENCODE writes is in range (10_state.md R41). -/
theorem outputsOk_writeEncodeOutputs {s : State} {r : EncodeResult} (hr : encodeFields s.cfg s.latch = .ok r)
    (hs : OutputsOk s) : OutputsOk (writeEncodeOutputs r s) := by
  obtain ⟨hbase, hsum⟩ := encodeFields_range hr
  obtain ⟨h1, h2, h3, h4, h5, h6, h7, h8, h9, h10, h11, h12, -, -⟩ := hs
  refine ⟨h1, h2, h3, h4, h5, h6, h7, h8, h9, h10, h11, h12, ?_, ?_⟩
  · exact (toNat_ofNat_byte hbase).trans_le hbase
  · exact (toNat_sumField hsum).trans_le hsum

/-- The lanes of a word made of bytes in range are in range. -/
theorem lane_word4_le {n : Nat} {b3 b2 b1 b0 : Byte} (h3 : b3.toNat ≤ n) (h2 : b2.toNat ≤ n) (h1 : b1.toNat ≤ n)
    (h0 : b0.toNat ≤ n) : ∀ b < 4, (lane (word4 b3 b2 b1 b0) b).toNat ≤ n := by
  intro b hb
  interval_cases b <;> simpa

/-- What a successful DECODE writes is in range: raw positions, under the masks of their fields
(10_state.md R36-R40). -/
theorem outputsOk_writeDecodeOutputs {s : State} {code : Idx → Byte} {r : DecodeResult}
    (hr : decodeCode s.cfg code = .ok r) (hs : OutputsOk s) : OutputsOk (writeDecodeOutputs r s) := by
  obtain ⟨hraw, hsum, hcheck, -⟩ := decodeCode_eq_ok hr
  have hle (i : Idx) : r.raw i ≤ 31 := hraw ▸ inverseShift_le s.cfg code i
  have hsum_le : r.sum ≤ 403 := hsum ▸ verifySum_le hle
  have hlane (i : Idx) : (rawLane r.raw i).toNat ≤ 31 := (toNat_rawLane hle i).trans_le (hle i)
  have htwo {i : Idx} (hmask : fieldMask s.cfg i = 0x03) : (maskedLane s.cfg r.raw i).toNat ≤ 3 := by
    rw [toNat_maskedLane_two_bits hle hmask]
    omega
  have hmask : fieldMask s.cfg 1 = s.cfg.hmMask := rfl
  have hmodel : maskedLane s.cfg r.raw 1 &&& ~~~s.cfg.hmMask = 0 := by
    rw [maskedLane, BitVec.and_assoc, hmask, BitVec.and_not_self]
    exact BitVec.and_zero
  obtain ⟨-, -, -, -, -, -, -, -, -, -, -, -, hbase, hesum⟩ := hs
  unfold OutputsOk
  simp only [writeDecodeOutputs_dSerial, writeDecodeOutputs_dFields, writeDecodeOutputs_dMaterial,
    writeDecodeOutputs_dVersion, writeDecodeOutputs_dCheck, writeDecodeOutputs_eInfo, writeDecodeOutputs_cfg,
    lane_word4_0, lane_word4_1, lane_word4_2, lane_word4_3, toNat_sumField hsum_le, toNat_rawLane hle]
  exact ⟨lane_word4_le (hlane 18) (hlane 12) (hlane 6) (hlane 0),
    lane_word4_le (hlane 16) (hlane 11) (hlane 10) (hlane 5), hmodel, htwo rfl, htwo rfl, htwo rfl, htwo rfl, hle 17,
    hle 7, hle 8, hsum_le, hcheck, hbase, hesum⟩

/-! ### The invariant -/

/-- Every step keeps the outputs in range (10_state.md R36-R41). -/
theorem step_keeps_outputsOk {s t : State} (h : step s = .next t) (hs : OutputsOk s) : OutputsOk t := by
  cases outputStep_of_step h with
  | kept hout => exact outputsOk_of_same hout (step_cfg h) hs
  | reset ht => exact outputsOk_of_resetRegisters ht
  | written i u hrule ht =>
    subst ht
    cases i with
    | nop r =>
      cases hrule
      exact hs
    | encode r =>
      obtain ⟨res, hres, rfl⟩ := encodeOutputs_eq_ok hrule
      exact (outputsOk_writeEncodeOutputs hres hs :)
    | decode r =>
      obtain ⟨res, hres, rfl⟩ := decodeOutputs_eq_ok hrule
      exact (outputsOk_writeDecodeOutputs hres hs :)
    | reserved r => cases hrule

/-- Settles O60: STATUS and the latch through the events of `StatusStep`, the outputs through those of `OutputStep`. -/
theorem stepKeepsTheInvariant : Obligations.StepKeepsTheInvariant := by
  unfold Obligations.StepKeepsTheInvariant
  intro s t ⟨hst, hop, hout⟩ h
  obtain ⟨hst', hop'⟩ := step_keeps_status h hst hop
  exact ⟨hst', hop', step_keeps_outputsOk h hout⟩

/-- Settles O59: nothing is in flight, and every register is 0. -/
theorem invariantHoldsAtReset : Obligations.InvariantHoldsAtReset := by
  unfold Obligations.InvariantHoldsAtReset
  have hreset (c : Cfg) : MachineInvariant (State.resetWith c) :=
    ⟨(by decide : StatusOk Status.reset), fun hbusy => (by cases hbusy), outputsOk_resetWith c⟩
  exact ⟨hreset, hreset Config.device⟩

end Sys2Proof.Machine

/-! ## Runs: the wait loop, fairness and `ldcode` (30_encoding.md R85; 70_reset_and_hazards.md R306) -/

namespace Sys2Proof.Machine

/-! ### Runs -/

theorem run_zero (s : State) : Host.Core.run Sys2Proof.core 0 s = .next s := rfl

/-- A run goes on after its first step. -/
theorem run_succ_of_step {s t : State} (h : step s = .next t) (n : Nat) :
    Host.Core.run Sys2Proof.core (n + 1) s = Host.Core.run Sys2Proof.core n t := by
  have hstep : Sys2Proof.core.step s = .next t := h
  simp only [Host.Core.run, hstep]

theorem run_one_of_fault {s : State} {f : Fault} (h : step s = .fault f) :
    Host.Core.run Sys2Proof.core 1 s = .fault f := by
  have hstep : Sys2Proof.core.step s = .fault f := h
  simp only [Host.Core.run, hstep]

/-- Eventually, if eventually after a step. -/
theorem eventually_of_step {P : State → Prop} {s t : State} (h : step s = .next t) (ht : Eventually P t) :
    Eventually P s := by
  obtain ⟨n, hn⟩ := ht
  refine ⟨n + 1, ?_⟩
  rw [run_succ_of_step h]
  exact hn

theorem eventually_of_now {P : State → Prop} {s : State} (h : P s) : Eventually P s :=
  ⟨0, .inl ⟨s, rfl, h⟩⟩

theorem eventually_of_fault {P : State → Prop} {s : State} {f : Fault} (h : step s = .fault f) : Eventually P s :=
  ⟨1, .inr ⟨f, run_one_of_fault h⟩⟩

/-! ### Fairness -/

/-- A host's step keeps a command in flight (10_state.md R25). -/
theorem host_step_keeps_busy {s t : State} (h : step s = .next t) (hturn : s.nextTurn = .host)
    (hbusy : s.status.busy = true) : t.status.busy = true := by
  obtain ⟨-, -, -, -, hhost⟩ := busyIsSetByAcceptanceAndClearedByCompletion s t h
  exact (hhost hbusy hturn).1

/-- With a command in flight, every host turn of the schedule keeps it in flight, and past the schedule's end it is the
engine's turn. -/
theorem eventually_engine_or_reset (sched : List Turn) {s : State} (hs : s.schedule = sched)
    (hbusy : s.status.busy = true) :
    Eventually (fun u => u.status.busy = true ∧ (u.nextTurn = .engine ∨ u.nextTurn = .reset)) s := by
  induction sched generalizing s with
  | nil => exact eventually_of_now ⟨hbusy, .inl (by rw [nextTurn_of_nil hs, if_pos hbusy])⟩
  | cons a rest ih =>
    have hturn := nextTurn_of_schedule hs
    cases a with
    | engine => exact eventually_of_now ⟨hbusy, .inl hturn⟩
    | reset => exact eventually_of_now ⟨hbusy, .inr hturn⟩
    | host =>
      rcases step_next_or_fault s with ⟨t, ht⟩ | ⟨_, _, _, _, _, hfault⟩
      · have hrest : t.schedule = rest := by rw [step_schedule ht, hs, List.tail_cons]
        exact eventually_of_step ht (ih hrest (host_step_keeps_busy ht hturn hbusy))
      · exact eventually_of_fault hfault

/-- Settles O54: by induction on what is left of the schedule. -/
theorem everyRunIsWeaklyFairToTheEngine : Obligations.EveryRunIsWeaklyFairToTheEngine := by
  unfold Obligations.EveryRunIsWeaklyFairToTheEngine
  exact fun s t _ hbusy => eventually_engine_or_reset t.schedule rfl hbusy

/-! ### The wait loop -/

/-- The host waits, and a command in flight is one that completes. -/
def Waiting (p : List HostOp) (s : State) : Prop :=
  s.program = .wait :: p ∧ (s.status.busy = true → s.latch.op ≠ 0)

/-- The host has gone past its `wait` and no command is in flight. -/
def WaitDone (p : List HostOp) (s : State) : Prop := s.program = p ∧ s.status.busy = false

section
variable {p : List HostOp} {s : State} (hs : Waiting p s)
include hs

/-- A poll while no command is in flight ends the wait. -/
theorem step_of_wait_idle (hturn : s.nextTurn = .host) (hbusy : s.status.busy = false) :
    ∃ t, step s = .next t ∧ WaitDone p t := by
  refine ⟨_, step_of_wait hturn hs.1, ?_, hbusy⟩
  simp [hbusy]

/-- A poll while a command is in flight changes neither. -/
theorem step_of_wait_busy (hturn : s.nextTurn = .host) (hbusy : s.status.busy = true) :
    ∃ t, step s = .next t ∧ Waiting p t ∧ t.status.busy = true := by
  refine ⟨_, step_of_wait hturn hs.1, ⟨?_, hs.2⟩, hbusy⟩
  simp [hbusy]

/-- After the engine's turn no command is in flight, and the host still waits. -/
theorem step_of_wait_engine (hturn : s.nextTurn = .engine) :
    ∃ t, step s = .next t ∧ Waiting p t ∧ t.status.busy = false ∧ (s.status.busy = true → t.status.done = true) := by
  obtain ⟨hp, hop⟩ := hs
  cases hbusy : s.status.busy with
  | false =>
    refine ⟨_, step_of_idle_engine hturn hbusy, ⟨hp, fun h => ?_⟩, hbusy, fun h => ?_⟩
    · exact hop h
    · cases h
  | true =>
    have hne := hop hbusy
    have hengine : s.scheduled.turn = some .engine := by rw [State.scheduled_turn, hturn]
    have hlatched : (decodeOp s.latch.op 0).op ≠ 0 := by rwa [decodeOp_op]
    obtain ⟨hprogram, -⟩ := exec_frame (exec_of_engine hlatched hengine)
    obtain ⟨hidle, hdone, -⟩ := complete_status (decodeOp s.latch.op 0) s.scheduled
    refine ⟨_, step_of_completion hturn hbusy hne, ⟨hprogram.trans hp, fun h => ?_⟩, hidle, fun _ => hdone⟩
    exact absurd (hidle.symm.trans h) (by decide)

/-- After a reset no command is in flight, and the host still waits (70_reset_and_hazards.md R302). -/
theorem step_of_wait_reset (hturn : s.nextTurn = .reset) :
    ∃ t, step s = .next t ∧ Waiting p t ∧ t.status.busy = false :=
  ⟨_, step_of_reset hturn, ⟨hs.1, fun h => by cases h⟩, rfl⟩

/-- A step of a host at a `wait` ends the wait or leaves the host at it. -/
theorem step_of_wait_next : ∃ t, step s = .next t ∧ (WaitDone p t ∨ Waiting p t) := by
  cases hturn : s.nextTurn with
  | engine =>
    obtain ⟨t, ht, hwait, -⟩ := step_of_wait_engine hs hturn
    exact ⟨t, ht, .inr hwait⟩
  | reset =>
    obtain ⟨t, ht, hwait, -⟩ := step_of_wait_reset hs hturn
    exact ⟨t, ht, .inr hwait⟩
  | host =>
    cases hbusy : s.status.busy with
    | false =>
      obtain ⟨t, ht, hdone⟩ := step_of_wait_idle hs hturn hbusy
      exact ⟨t, ht, .inl hdone⟩
    | true =>
      obtain ⟨t, ht, hwait, -⟩ := step_of_wait_busy hs hturn hbusy
      exact ⟨t, ht, .inr hwait⟩

/-- Past the schedule's end a wait with no command in flight ends with the next poll. -/
theorem run_of_wait_idle (hsched : s.schedule = []) (hbusy : s.status.busy = false) :
    ∃ t, Host.Core.run Sys2Proof.core 1 s = .next t ∧ WaitDone p t := by
  have hturn : s.nextTurn = .host := by rw [nextTurn_of_nil hsched, hbusy, if_neg Bool.false_ne_true]
  obtain ⟨t, ht, hdone⟩ := step_of_wait_idle hs hturn hbusy
  exact ⟨t, run_succ_of_step ht 0, hdone⟩

/-- Past the schedule's end a wait ends with the completion, if a command is in flight, and a poll. -/
theorem run_of_wait_past_schedule (hsched : s.schedule = []) :
    ∃ k ≤ 2, ∃ t, Host.Core.run Sys2Proof.core k s = .next t ∧ WaitDone p t := by
  cases hbusy : s.status.busy with
  | false => exact ⟨1, by decide, run_of_wait_idle hs hsched hbusy⟩
  | true =>
    have hturn : s.nextTurn = .engine := by rw [nextTurn_of_nil hsched, if_pos hbusy]
    obtain ⟨t, ht, hwait, hidle, -⟩ := step_of_wait_engine hs hturn
    have htsched : t.schedule = [] := by rw [step_schedule ht, hsched, List.tail_nil]
    refine ⟨2, le_rfl, ?_⟩
    rw [run_succ_of_step ht]
    exact run_of_wait_idle hwait htsched hidle

end

/-- A wait ends within two steps after the schedule's end. -/
theorem run_of_wait (sched : List Turn) {p : List HostOp} {s : State} (hsched : s.schedule = sched)
    (hs : Waiting p s) :
    ∃ k ≤ sched.length + 2, ∃ t, Host.Core.run Sys2Proof.core k s = .next t ∧ WaitDone p t := by
  induction sched generalizing s with
  | nil => exact run_of_wait_past_schedule hs hsched
  | cons a rest ih =>
    obtain ⟨t, ht, hdone | hwait⟩ := step_of_wait_next hs
    · exact ⟨1, by simp, t, run_succ_of_step ht 0, hdone⟩
    · obtain ⟨k, hk, hrun⟩ := ih (by rw [step_schedule ht, hsched, List.tail_cons]) hwait
      refine ⟨k + 1, by rw [List.length_cons]; omega, ?_⟩
      rw [run_succ_of_step ht]
      exact hrun

/-- Settles O55: by induction on what is left of the schedule. -/
theorem everyWaitEnds : Obligations.EveryWaitEnds := by
  unfold Obligations.EveryWaitEnds
  exact fun s p hop hp => run_of_wait s.schedule rfl ⟨hp, hop⟩

/-- A wait of `n` polls while a command is in flight. -/
theorem run_of_polls (n : Nat) {p : List HostOp} {s : State} {rest : List Turn} (hs : Waiting p s)
    (hbusy : s.status.busy = true) (hsched : s.schedule = List.replicate n .host ++ rest) :
    ∃ u, Waiting p u ∧ u.status.busy = true ∧ u.schedule = rest ∧
      ∀ m, Host.Core.run Sys2Proof.core (n + m) s = Host.Core.run Sys2Proof.core m u := by
  induction n generalizing s with
  | zero => exact ⟨s, hs, hbusy, hsched, fun m => by rw [Nat.zero_add]⟩
  | succ n ih =>
    rw [List.replicate_succ, List.cons_append] at hsched
    obtain ⟨t, ht, hwait, hbusy'⟩ := step_of_wait_busy hs (nextTurn_of_schedule hsched) hbusy
    obtain ⟨u, hu, hubusy, husched, hrun⟩ := ih hwait hbusy' (by rw [step_schedule ht, hsched, List.tail_cons])
    exact ⟨u, hu, hubusy, husched, fun m => by rw [Nat.succ_add, run_succ_of_step ht, hrun]⟩

/-- Settles O53: the polls keep the command in flight, the engine's turn completes it, and the next poll ends the
wait. -/
theorem waitEndsAfterTheCompletion : Obligations.WaitEndsAfterTheCompletion := by
  unfold Obligations.WaitEndsAfterTheCompletion
  intro n s p rest hbusy hop hp hsched
  obtain ⟨u, hu, hubusy, husched, hrun⟩ := run_of_polls n ⟨hp, fun _ => hop⟩ hbusy hsched
  refine ⟨⟨u, hrun 0, hu.1, hubusy⟩, ?_⟩
  obtain ⟨v, hv, hvwait, hvidle, hvdone⟩ := step_of_wait_engine hu (nextTurn_of_schedule husched)
  have hvsched : v.schedule = .host :: rest := by rw [step_schedule hv, husched, List.tail_cons]
  have hpoll := step_of_wait (nextTurn_of_schedule hvsched) hvwait.1
  have hend := (hrun 2).trans ((run_succ_of_step hv 1).trans ((run_succ_of_step hpoll 0).trans (run_zero _)))
  refine ⟨_, hend, ?_, hvidle, hvdone hubusy, ?_⟩
  · simp [hvidle]
  · simp [hvsched]

/-! ### `ldcode` -/

/-- The code registers after a write to one of them (10_state.md R35). -/
def CodeRegs.write (r : Reg) (v : Word) (c : CodeRegs) : CodeRegs :=
  match r with
  | .code0 => { c with code0 := v }
  | .code1 => { c with code1 := v }
  | .code2 => { c with code2 := v }
  | .code3 => { c with code3 := v }
  | .code4 => { c with code4 := v.setWidth 24 }
  | _ => c

/-- A write to a code register is a write of the code. -/
theorem writeReg_of_mem_codeRegisters {r : Reg} (h : r ∈ codeRegisters) (v : Word) (s : State) :
    writeReg r v s = { s with code := s.code.write r v } := by
  simp only [codeRegisters, List.mem_cons, List.not_mem_nil, or_false] at h
  rcases h with rfl | rfl | rfl | rfl | rfl <;> rfl

theorem ne_cmd_of_mem_codeRegisters {r : Reg} (h : r ∈ codeRegisters) : r ≠ .cmd := by
  rintro rfl
  exact absurd h (by decide)

/-- The host's write of a code register, as the next step of a run. -/
theorem run_code_write {r : Reg} (h : r ∈ codeRegisters) (v : Word) (s : State) (c : CodeRegs) (p : List HostOp)
    (rest : List Turn) (n : Nat) :
    Host.Core.run Sys2Proof.core (n + 1)
        { s with code := c, program := HostOp.wr r.offset v :: p, schedule := .host :: rest } =
      Host.Core.run Sys2Proof.core n { s with code := c.write r v, program := p, schedule := rest } := by
  rw [run_succ_of_step (step_of_register_write (r := r) (v := v) ⟨rfl, rfl⟩ (ne_cmd_of_mem_codeRegisters h)),
    writeReg_of_mem_codeRegisters h]
  rfl

/-- A write to each code register replaces the code. -/
theorem write_code_registers (c : CodeRegs) (w0 w1 w2 w3 w4 : Word) :
    ((((c.write .code0 w0).write .code1 w1).write .code2 w2).write .code3 w3).write .code4 w4 =
      ⟨w0, w1, w2, w3, w4.setWidth 24⟩ := rfl

/-- The low three bytes of a word are CODE4 (10_state.md R35). -/
theorem setWidth_word4_zero (b2 b1 b0 : Byte) : (word4 0 b2 b1 b0).setWidth 24 = b2 ++ b1 ++ b0 := by
  rw [← setWidth_code4, BitVec.setWidth_setWidth_of_le _ (by decide), BitVec.setWidth_eq]

/-- The code registers after the five writes of an `ldcode` line (30_encoding.md R85). -/
theorem code_of_ldcode_writes (ch : Vector Byte 19) :
    CodeRegs.mk (word4 ch[3] ch[2] ch[1] ch[0]) (word4 ch[7] ch[6] ch[5] ch[4]) (word4 ch[11] ch[10] ch[9] ch[8])
      (word4 ch[15] ch[14] ch[13] ch[12]) ((word4 0 ch[18] ch[17] ch[16]).setWidth 24) =
    CodeRegs.ofChars fun i => ch[i] := by
  rw [setWidth_word4_zero]
  simp only [CodeRegs.ofChars, Fin.getElem_fin]
  rfl

/-- The five accesses of an `ldcode` line (30_encoding.md R85). -/
theorem expand_ldcode (ch : Vector Byte 19) (p : List HostOp) :
    (HostLine.ldcode ch).expand ++ p =
      HostOp.wr Reg.code0.offset (word4 ch[3] ch[2] ch[1] ch[0]) ::
      HostOp.wr Reg.code1.offset (word4 ch[7] ch[6] ch[5] ch[4]) ::
      HostOp.wr Reg.code2.offset (word4 ch[11] ch[10] ch[9] ch[8]) ::
      HostOp.wr Reg.code3.offset (word4 ch[15] ch[14] ch[13] ch[12]) ::
      HostOp.wr Reg.code4.offset (word4 0 ch[18] ch[17] ch[16]) :: p := by
  simp only [HostLine.expand, word4, List.cons_append, List.nil_append]
  rfl

/-- Five host turns of an `ldcode` line (30_encoding.md R85). -/
theorem run_ldcode {s : State} {ch : Vector Byte 19} {p : List HostOp} {rest : List Turn}
    (hp : s.program = (HostLine.ldcode ch).expand ++ p) (hsched : s.schedule = List.replicate 5 .host ++ rest) :
    Host.Core.run Sys2Proof.core 5 s =
      .next { s with code := CodeRegs.ofChars fun i => ch[i], program := p, schedule := rest } := by
  have hstate : s = { s with
      code := s.code, program := (HostLine.ldcode ch).expand ++ p
      schedule := .host :: .host :: .host :: .host :: .host :: rest } := by
    have hsched' : s.schedule = .host :: .host :: .host :: .host :: .host :: rest := hsched
    rw [← hp, ← hsched']
  rw [expand_ldcode] at hstate
  rw [congrArg (Host.Core.run Sys2Proof.core 5) hstate, run_code_write (by decide), run_code_write (by decide),
    run_code_write (by decide), run_code_write (by decide), run_code_write (by decide), run_zero,
    write_code_registers, code_of_ldcode_writes]

/-- Settles O57: the five writes make the code registers that hold the characters. -/
theorem ldcodeLoadsTheCode : Obligations.LdcodeLoadsTheCode := by
  unfold Obligations.LdcodeLoadsTheCode
  intro s ch p rest hp hsched
  exact ⟨_, run_ldcode hp hsched, fun i => by rw [char_ofChars], rfl⟩

end Sys2Proof.Machine

/-! ## The latch (10_state.md R43; 70_reset_and_hazards.md R300, R307) -/

namespace Sys2Proof.Machine

/-! ### The host's turn, by its next operation -/

section
variable {s : State} {p : List HostOp}

theorem hostTurn_nil (hp : s.program = []) : hostTurn s = .next (endTurn s) := by
  simp only [hostTurn, hp]

theorem hostTurn_access {a : Access} (hp : s.program = .access a :: p) :
    hostTurn s = mapNext retire (busAccess a s) := by
  simp only [hostTurn, hp]

theorem hostTurn_expect {off : Offset} {v : Word} (hp : s.program = .expect off v :: p) :
    hostTurn s = if (Access.read off 32).wellFormed then .next (retire (observe off (some v) s))
      else .fault (.busFault off) := by
  simp only [hostTurn, hp]

theorem hostTurn_wait (hp : s.program = .wait :: p) : hostTurn s = .next (waitStep s) := by
  simp only [hostTurn, hp]

end

theorem waitStep_latch (s : State) : (waitStep s).latch = s.latch := by
  unfold waitStep
  simp only
  split <;> rfl

/-! ### While no command is in flight -/

/-- The outcome `o'` is `o`, or it is `o` with the latch `l` where `o` still has `l₀`. -/
def SameButLatch (l₀ l : Latch) (o o' : Host.Outcome State Fault Refusal) : Prop :=
  o' = o ∨ o' = mapNext (fun t => { t with latch := l }) o ∧ ∀ t, o = .next t → t.latch = l₀

/-- A step that leaves the latch, and does the same to the rest of the state. -/
theorem sameButLatch_next {l₀ l : Latch} {t : State} (ht : t.latch = l₀) :
    SameButLatch l₀ l (.next t) (.next { t with latch := l }) :=
  .inr ⟨rfl, fun u hu => by
    cases hu
    exact ht⟩

/-- Using up the operation or the turn does not touch the latch. -/
theorem SameButLatch.mapNext {l₀ l : Latch} {o o' : Host.Outcome State Fault Refusal} (h : SameButLatch l₀ l o o')
    {f : State → State} (hlatch : ∀ t, (f t).latch = t.latch)
    (hf : ∀ t, f { t with latch := l } = { f t with latch := l }) :
    SameButLatch l₀ l (Machine.mapNext f o) (Machine.mapNext f o') := by
  rcases h with rfl | ⟨rfl, hkept⟩
  · exact .inl rfl
  · cases o with
    | next t => exact .inr ⟨congrArg Host.Outcome.next (hf t), fun u hu => by
        cases hu
        exact (hlatch t).trans (hkept t rfl)⟩
    | fault e => exact .inl rfl
    | refused e => exact .inl rfl

section
variable {s : State} (hbusy : s.status.busy = false) (l : Latch)
include hbusy

/-- A command written while none is in flight replaces the latch (10_state.md R43). -/
theorem exec_sameButLatch {i : Instr} (hturn : s.turn = some .host) :
    SameButLatch s.latch l (exec i s) (exec i { s with latch := l }) := by
  by_cases hop : i.op = 0
  · rw [exec_of_op_zero hop, exec_of_op_zero hop]
    exact sameButLatch_next rfl
  · refine .inl ?_
    rw [exec_of_host_idle hop hturn hbusy, exec_of_host_idle (s := { s with latch := l }) hop hturn hbusy]
    rfl

theorem busWrite_sameButLatch (off : Offset) (v : Word) (hturn : s.turn = some .host) :
    SameButLatch s.latch l (busWrite off v s) (busWrite off v { s with latch := l }) := by
  cases hr : Reg.ofOffset off with
  | none =>
    rw [busWrite_of_none hr, busWrite_of_none hr]
    exact sameButLatch_next rfl
  | some r =>
    obtain rfl := Reg.offset_of_ofOffset hr
    by_cases hcmd : r = .cmd
    · subst hcmd
      rw [busWrite_cmd, busWrite_cmd]
      exact exec_sameButLatch hbusy l hturn
    · have hwrite : writeReg r v { s with latch := l } = { writeReg r v s with latch := l } := by cases r <;> rfl
      rw [busWrite_offset hcmd, busWrite_offset hcmd, hwrite]
      exact sameButLatch_next (writeReg_latch r v s)

omit hbusy in
/-- No register shows the latch (10_state.md R43). -/
theorem busRead_latch (off : Offset) : busRead off { s with latch := l } = busRead off s := by
  cases hr : Reg.ofOffset off with
  | none => rw [busRead_of_none hr, busRead_of_none hr]
  | some r =>
    rw [Reg.offset_of_ofOffset hr, busRead_offset, busRead_offset]
    cases r <;> rfl

omit hbusy in
theorem observe_latch_comm (off : Offset) (x : Option Word) :
    observe off x { s with latch := l } = { observe off x s with latch := l } := by
  rw [observe, busRead_latch]
  rfl

omit hbusy in
theorem waitStep_latch_comm : waitStep { s with latch := l } = { waitStep s with latch := l } := by
  simp only [waitStep, busRead_latch, observe_latch_comm]
  split <;> rfl

theorem busAccess_sameButLatch (a : Access) (hturn : s.turn = some .host) :
    SameButLatch s.latch l (busAccess a s) (busAccess a { s with latch := l }) := by
  unfold busAccess
  split
  · cases a with
    | read off width =>
      simp only [observe_latch_comm]
      exact sameButLatch_next rfl
    | write off width v => exact busWrite_sameButLatch hbusy l off v hturn
  · exact .inl rfl

theorem hostTurn_sameButLatch (hturn : s.turn = some .host) :
    SameButLatch s.latch l (hostTurn s) (hostTurn { s with latch := l }) := by
  by_cases hnil : s.program = []
  · rw [hostTurn_nil hnil, hostTurn_nil (s := { s with latch := l }) hnil]
    exact sameButLatch_next (t := endTurn s) rfl
  · obtain ⟨op, p, hp⟩ := List.exists_cons_of_ne_nil hnil
    cases op with
    | access a =>
      rw [hostTurn_access hp, hostTurn_access (s := { s with latch := l }) hp]
      exact (busAccess_sameButLatch hbusy l a hturn).mapNext retire_latch fun _ => rfl
    | expect off v =>
      rw [hostTurn_expect hp, hostTurn_expect (s := { s with latch := l }) hp, observe_latch_comm]
      split
      · exact sameButLatch_next (t := retire (observe off (some v) s)) rfl
      · exact .inl rfl
    | wait =>
      rw [hostTurn_wait hp, hostTurn_wait (s := { s with latch := l }) hp, waitStep_latch_comm l]
      exact sameButLatch_next (waitStep_latch s)

/-- While no command is in flight, no step reads the latch. -/
theorem step_sameButLatch : SameButLatch s.latch l (step s) (step { s with latch := l }) := by
  cases hturn : s.nextTurn with
  | host =>
    have hhost : s.scheduled.turn = some .host := by rw [State.scheduled_turn, hturn]
    rw [step_of_host hturn, step_of_host (s := { s with latch := l }) hturn]
    exact hostTurn_sameButLatch (s := s.scheduled) hbusy l hhost
  | engine =>
    rw [step_of_idle_engine hturn hbusy, step_of_idle_engine (s := { s with latch := l }) hturn hbusy]
    exact sameButLatch_next rfl
  | reset =>
    rw [step_of_reset hturn, step_of_reset (s := { s with latch := l }) hturn]
    exact .inl rfl

end

/-- Settles O50: the step with another latch is the same, or the same with that latch. -/
theorem latchIsNotReadWhileIdle : Obligations.LatchIsNotReadWhileIdle := by
  unfold Obligations.LatchIsNotReadWhileIdle
  intro s l hbusy
  rcases step_sameButLatch hbusy l with hstep | ⟨hstep, hkept⟩
  · rw [hstep]
    exact ⟨fun f h => h, fun t h => .inl h⟩
  · rw [hstep]
    refine ⟨fun f h => by rw [h, mapNext], fun t h => .inr ⟨hkept t h, by rw [h, mapNext_next]⟩⟩

/-! ### While a command is in flight -/

/-- The rule of a command reads the configuration and the latch only, so in states that agree on both it raises the
same error, or writes the same result (10_state.md R43). -/
theorem outputsOf_same_latch {i : Instr} {s u : State} (hop : i.op ≠ 0) (hcfg : u.cfg = s.cfg)
    (hlatch : u.latch = s.latch) :
    (∃ e, outputsOf i s = .error e ∧ outputsOf i u = .error e) ∨
    (∃ res, i.op = 1 ∧ outputsOf i s = .ok (writeEncodeOutputs res s) ∧
      outputsOf i u = .ok (writeEncodeOutputs res u)) ∨
    (∃ res, i.op = 2 ∧ outputsOf i s = .ok (writeDecodeOutputs res s) ∧
      outputsOf i u = .ok (writeDecodeOutputs res u)) := by
  cases i with
  | nop r => exact absurd rfl hop
  | encode r =>
    simp only [outputsOf, encodeOutputs, hcfg, hlatch]
    cases encodeFields s.cfg s.latch with
    | ok res => exact .inr (.inl ⟨res, rfl, rfl, rfl⟩)
    | error e => exact .inl ⟨e, rfl, rfl⟩
  | decode r =>
    simp only [outputsOf, decodeOutputs, hcfg, hlatch]
    cases decodeCode s.cfg (codeOf s.latch).char with
    | ok res => exact .inr (.inr ⟨res, rfl, rfl, rfl⟩)
    | error e => exact .inl ⟨e, rfl, rfl⟩
  | reserved r => exact .inl ⟨_, rfl, rfl⟩

/-- A completion keeps the input registers (10_state.md R30-R34). -/
theorem sameInputs_complete (i : Instr) (s : State) : SameInputs s (complete (outputsOf i) s) := by
  cases hrule : outputsOf i s with
  | error e =>
    rw [complete_error hrule]
    exact ⟨rfl, rfl, rfl, rfl, rfl⟩
  | ok t =>
    rw [complete_ok hrule, outputsOf_eq hrule]
    exact ⟨rfl, rfl, rfl, rfl, rfl⟩

/-- Settles O49: the written register is none of what the rule reads, so the completion reports and writes the same;
only an ENCODE that succeeds writes the code. -/
theorem inputWritesWhileBusyDoNotAffectTheCommand : Obligations.InputWritesWhileBusyDoNotAffectTheCommand := by
  unfold Obligations.InputWritesWhileBusyDoNotAffectTheCommand
  intro i r v s hr hturn _ hop _
  have hstatus : (writeReg r v s).status = s.status := by rw [writeReg_status, if_neg (ne_status_of_mem_rwRegisters hr)]
  have hturn' : (writeReg r v s).turn = some .engine := by rw [writeReg_turn, hturn]
  refine ⟨_, _, exec_of_engine hop hturn, busWrite_offset (ne_cmd_of_mem_rwRegisters hr) v s,
    exec_of_engine hop hturn', ?_⟩
  have hinputs := sameInputs_complete i (writeReg r v s)
  rcases outputsOf_same_latch hop (writeReg_cfg r v s) (writeReg_latch r v s) with
    ⟨e, hs, hu⟩ | ⟨res, hencode, hs, hu⟩ | ⟨res, hdecode, hs, hu⟩
  · rw [complete_error hu] at hinputs ⊢
    rw [complete_error hs]
    simpa [SameDecodeOutputs, hstatus] using hinputs
  · rw [complete_ok hu] at hinputs ⊢
    rw [complete_ok hs]
    simpa [SameDecodeOutputs, hstatus] using hinputs
  · rw [complete_ok hu] at hinputs ⊢
    rw [complete_ok hs]
    simpa [SameDecodeOutputs, hstatus, hdecode] using hinputs

end Sys2Proof.Machine

/-! ## The alphabet, the embedding and the shift as derived laws (40_alphabet.md; 42_embed.md; 44_shift.md) -/

namespace Sys2Proof.Machine

/-! ### Canonical positions -/

/-- Settles O22: the canonical part has no repeats and no separator. -/
theorem canonIsTheIdentityOnCanonicalPositions : Obligations.CanonIsTheIdentityOnCanonicalPositions := by
  unfold Obligations.CanonIsTheIdentityOnCanonicalPositions
  intro c ⟨hnodup, hsep⟩
  exact ⟨fun p hp => positionOf_alphabet hnodup hp, fun p => positionOf_alphabet hnodup p.isLt, positionOf_le c,
    positionOf_of_not_mem_canonical hsep⟩

/-- Every canonical value is a position (40_alphabet.md R103). -/
theorem canonAt_le (c : Cfg) (p : Nat) : canonAt c p ≤ 31 := by
  unfold canonAt
  split
  · exact positionOf_le c _
  · exact le_rfl

/-- A canonical position is its own canonical value. -/
theorem canonAt_of_le {c : Cfg} (h : c.AlphabetOk) {p : Nat} (hp : p ≤ 31) : canonAt c p = p := by
  rw [canonAt, dif_pos (show p < 35 by omega)]
  exact positionOf_alphabet h.1 (Nat.lt_succ_of_le hp)

/-- The position of the character of a canonical position is that position. -/
theorem positionOf_of_charOf_canonical {c : Cfg} (h : c.AlphabetOk) {p : Nat} {b : Byte} (hp : p ≤ 31)
    (hb : charOf c p = .ok b) : positionOf c b = p :=
  (positionOf_of_charOf hb).trans (canonAt_of_le h hp)

/-! ### The embedding -/

/-- The embedding raises FIELD_RANGE and nothing else, where one of its embeds raises it (42_embed.md R145). -/
theorem embedAll_of_error {c : Cfg} {s : Idx → Byte} {l : Latch}
    (h : ∃ i ∈ fieldIdx, embed c (s i) (rawValue l i) (fieldMask c i) = .error .fieldRange) :
    embedAll c s l = .error .fieldRange := by
  obtain ⟨i, hi, herr⟩ := h
  cases hembed : embedAll c s l with
  | ok e => cases herr.symm.trans ((fillM_eq_ok hembed).1 i hi)
  | error e =>
    obtain ⟨j, -, hj⟩ := fillM_eq_error hembed
    obtain ⟨rfl, -⟩ := charOf_error hj
    rfl

/-- Settles O25: the layout gives each field index its lane and its mask. -/
theorem embedAllFollowsTheLayout : Obligations.EmbedAllFollowsTheLayout := by
  unfold Obligations.EmbedAllFollowsTheLayout
  refine fun c s l => ⟨fun e he => ?_, fun h => fillM_total s h, embedAll_of_error⟩
  obtain ⟨hfield, hkept⟩ := fillM_eq_ok he
  exact ⟨hfield 0 (by decide), hfield 1 (by decide), hfield 2 (by decide), hfield 3 (by decide), hfield 5 (by decide),
    hfield 6 (by decide), hfield 10 (by decide), hfield 11 (by decide), hfield 12 (by decide), hfield 13 (by decide),
    hfield 15 (by decide), hfield 16 (by decide), hfield 18 (by decide), hkept 4 (by decide), hkept 7 (by decide),
    hkept 8 (by decide), hkept 9 (by decide), hkept 14 (by decide), hkept 17 (by decide)⟩

/-! ### The shift -/

/-- A shift adds the reduced offset modulo 32: the sum is at most 63, so one subtraction is enough
(44_shift.md R186). -/
theorem shift_eq (k : Nat) {p : Nat} (hp : p ≤ 31) : shift k p = (p + red k) % 32 := by
  have hred := red_le k
  simp only [shift, and_0xFF (show p + red k < 256 by omega)]
  split <;> omega

/-- An unshift subtracts the reduced offset modulo 32: the difference is at least -32, so one addition is enough
(44_shift.md R188). -/
theorem unshift_eq (k : Nat) {p : Nat} (hp : p ≤ 31) : unshift k p = (p + 64 - red k) % 32 := by
  have hred := red_le k
  simp only [unshift]
  split <;> omega

/-- Settles O28: the threshold of the reduction, and one correction for each direction. -/
theorem shiftIsAdditionModulo32 : Obligations.ShiftIsAdditionModulo32 := by
  unfold Obligations.ShiftIsAdditionModulo32
  exact ⟨fun _ => rfl, fun k _ hp => ⟨shift_eq k hp, unshift_eq k hp⟩⟩

theorem unshift_shift (k : Nat) {p : Nat} (hp : p ≤ 31) : unshift k (shift k p) = p := by
  have hred := red_le k
  rw [unshift_eq k (shift_lt k hp), shift_eq k hp]
  omega

theorem shift_unshift (k : Nat) {p : Nat} (hp : p ≤ 31) : shift k (unshift k p) = p := by
  have hred := red_le k
  rw [shift_eq k (unshift_lt k hp), unshift_eq k hp]
  omega

/-- Settles O29: adding and subtracting one offset modulo 32 undo each other. -/
theorem unshiftUndoesShift : Obligations.UnshiftUndoesShift := by
  unfold Obligations.UnshiftUndoesShift
  exact fun k p hp => ⟨unshift_shift k hp, shift_unshift k hp, shift_lt k hp, unshift_lt k hp⟩

/-- Different positions unshift to different positions. -/
theorem unshift_injective (k : Nat) {p q : Nat} (hp : p ≤ 31) (hq : q ≤ 31) (h : unshift k p = unshift k q) : p = q :=
  calc p
    _ = shift k (unshift k p) := (shift_unshift k hp).symm
    _ = shift k (unshift k q) := by rw [h]
    _ = q := shift_unshift k hq

end Sys2Proof.Machine

/-! ## What verify detects (43_checksum.md) -/

namespace Sys2Proof.Machine

/-- A sum over the field indices changes with one of its terms. -/
theorem sum_fieldIdx_ne {f g : Idx → Nat} {i : Idx} (hi : i ∈ fieldIdx) (hother : ∀ j, j ≠ i → f j = g j)
    (hne : f i ≠ g i) : (fieldIdx.map f).sum ≠ (fieldIdx.map g).sum := by
  have hnodup : fieldIdx.Nodup := by decide
  have hsplit (f : Idx → Nat) : (fieldIdx.map f).sum = f i + ((fieldIdx.erase i).map f).sum :=
    ((List.perm_cons_erase hi).map f).sum_eq
  have hrest : (fieldIdx.erase i).map f = (fieldIdx.erase i).map g :=
    List.map_congr_left fun j hj => hother j (hnodup.mem_erase_iff.mp hj).1
  rw [hsplit f, hsplit g, hrest]
  omega

/-- A code that is no CHECKSUM_MISMATCH has the sum its checksum characters give (43_checksum.md R162). -/
theorem sum_eq_of_not_mismatch {c : Cfg} {code : Idx → Byte} (h : decodeCode c code ≠ .error .checksumMismatch) :
    (fieldIdx.map (inverseShift c code)).sum = 16 * inverseShift c code 7 + inverseShift c code 8 := by
  by_contra hsum
  exact h (decodeCode_of_sum_ne rfl hsum)

/-- Settles O46: one changed position changes the sum of the raw array, and no other term of the check. -/
theorem oneChangedCharacterIsDetected : Obligations.OneChangedCharacterIsDetected := by
  unfold Obligations.OneChangedCharacterIsDetected
  intro c code code' i hi hother
  have hfield : ∀ j ∈ ([7, 8, 17] : List Idx), j ∉ fieldIdx := by decide
  have hkept {j : Idx} (hj : j ∈ ([7, 8, 17] : List Idx)) : code' j = code j :=
    hother j fun heq => hfield j hj (heq ▸ hi)
  have hbase : positionOf c (code' 17) = positionOf c (code 17) := by rw [hkept (by decide)]
  have hraw {j : Idx} (hj : positionOf c (code' j) = positionOf c (code j)) :
      inverseShift c code' j = inverseShift c code j := inverseShift_congr hbase hj
  have hraw_other (j : Idx) (hj : j ≠ i) : inverseShift c code' j = inverseShift c code j :=
    hraw (by rw [hother j hj])
  refine ⟨fun hne hverifies => decodeCode_of_sum_ne rfl ?_, fun heq => decodeCode_congr (funext fun j => ?_)⟩
  · have hmoved : inverseShift c code' i ≠ inverseShift c code i := by
      rw [inverseShift_field c code' hi, inverseShift_field c code hi, hbase]
      exact fun h => hne (unshift_injective _ (positionOf_le c _) (positionOf_le c _) h)
    have hsum := sum_fieldIdx_ne hi hraw_other hmoved
    rw [sum_eq_of_not_mismatch hverifies] at hsum
    rwa [hraw (j := 7) (by rw [hkept (by decide)]), hraw (j := 8) (by rw [hkept (by decide)])]
  · by_cases hj : j = i
    · exact hraw (hj ▸ heq)
    · exact hraw_other j hj

end Sys2Proof.Machine

/-! ## The code ENCODE writes, index by index (46_commands.md R240-R247) -/

namespace Sys2Proof.Machine

/-! ### The checks behind a successful ENCODE -/

theorem configCodeType_eq_ok {c : Cfg} {l : Latch} {ct : Fin 4} (h : configCodeType c l = .ok ct) :
    (lane l.fields 3).toNat = c.ctConfigId := by
  by_contra hne
  cases (configCodeType_of_ne hne).symm.trans h

theorem hardwareModel_eq_ok {c : Cfg} {l : Latch} {hm : Fin c.hmCount} (h : hardwareModel c l = .ok hm) :
    (lane l.fields 0).toNat = hm := by
  unfold hardwareModel at h
  split at h
  · cases h
    rfl
  · cases h

theorem serialDigits_eq_ok {l : Latch} {d : Digits} (h : serialDigits l = .ok d) : SerialIs l d := by
  rcases serialDigits_cases l with herr | ⟨d', hserial, hd⟩
  · cases herr.symm.trans h
  · cases hd.symm.trans h
    exact hserial

/-- Only embedded positions with a character pass (42_embed.md R145). -/
theorem embeddedPosition_le_of_embedAll {c : Cfg} {d4 : Fin 10} {l : Latch} {s e : Idx → Byte}
    (hseed : seedSequence c d4 = .ok s) (hembed : embedAll c s l = .ok e) :
    ∀ i ∈ fieldIdx, (embeddedPosition c d4 l i).toNat ≤ 34 := by
  by_contra hgt
  push Not at hgt
  cases (embedAll_of_embeddedPosition_gt hseed hgt).symm.trans hembed

/-- An ENCODE that succeeds had inputs that pass the checks (46_commands.md R240, R241; 42_embed.md R145). -/
theorem encodeInputsOk_of_ok {c : Cfg} {l : Latch} {r : EncodeResult} (h : encodeFields c l = .ok r) :
    ∃ d hm, EncodeInputsOk c l d hm := by
  obtain ⟨ct, d, hm, s, e, _, _, hct, hd, hhm, hseed, hembed, -⟩ := encodeFields_eq_ok h
  exact ⟨d, hm, configCodeType_eq_ok hct, serialDigits_eq_ok hd, hardwareModel_eq_ok hhm,
    embeddedPosition_le_of_embedAll hseed hembed⟩

/-- A serial lane that is no digit is reported, whatever the seed is (46_commands.md R241). -/
theorem encodeFields_of_serial {c : Cfg} {l : Latch} {e : ErrCode} (hcodeType : (lane l.fields 3).toNat = c.ctConfigId)
    (herr : serialDigits l = .error e) : encodeFields c l = .error e :=
  bind_of_ok (configCodeType_of_eq hcodeType) (bind_of_error herr)

/-! ### The position behind each character -/

/-- Where an index stands in the code (42_embed.md R140, R141). -/
theorem idx_cases (i : Idx) : i ∈ fieldIdx ∨ i = 7 ∨ i = 8 ∨ i = 17 ∨ i = 4 ∨ i = 9 ∨ i = 14 := by
  revert i
  decide

/-- The position whose character stands at an index that is no separator, for the shift base `base` and the positions
`work` of the fields: a shifted field, a nibble of their sum, or the shift base (46_commands.md R247). -/
def codePosition (c : Cfg) (base : Nat) (work : Idx → Nat) (i : Idx) : Nat :=
  if i ∈ fieldIdx then shift (offsetAt c base i) (work i)
  else if i = 7 then (fieldIdx.map work).sum / 16 % 16
  else if i = 8 then (fieldIdx.map work).sum % 16
  else base

section
variable (c : Cfg) (base : Nat) (work : Idx → Nat)

theorem codePosition_field {i : Idx} (hi : i ∈ fieldIdx) :
    codePosition c base work i = shift (offsetAt c base i) (work i) := if_pos hi

theorem codePosition_seven : codePosition c base work 7 = (fieldIdx.map work).sum / 16 % 16 := rfl

theorem codePosition_eight : codePosition c base work 8 = (fieldIdx.map work).sum % 16 := rfl

theorem codePosition_seventeen : codePosition c base work 17 = base := rfl

end

/-- The work positions are positions. -/
theorem workPosition_le (c : Cfg) (d4 : Fin 10) (l : Latch) (i : Idx) : workPosition c d4 l i ≤ 31 := canonAt_le c _

/-- Every code position is canonical (40_alphabet.md, "Output-domain invariant"). -/
theorem codePosition_le {c : Cfg} {base : Nat} {work : Idx → Nat} (hbase : base ≤ 31) (hwork : ∀ i, work i ≤ 31)
    (i : Idx) : codePosition c base work i ≤ 31 := by
  unfold codePosition
  split_ifs
  · exact shift_lt _ (hwork i)
  · omega
  · omega
  · exact hbase

section
variable {c : Cfg} {l : Latch} {d : Digits} {hm : Fin c.hmCount} {r : EncodeResult} (hin : EncodeInputsOk c l d hm)
  (hr : encodeFields c l = .ok r)
include hin hr

/-- Every character of the code is the separator or that of its code position (46_commands.md R247). -/
theorem encodeFields_char (i : Idx) :
    ((i = 4 ∨ i = 9 ∨ i = 14) ∧ r.chars i = SEP) ∨
      charOf c (codePosition c r.base (workPosition c d.d4 l) i) = .ok (r.chars i) := by
  obtain ⟨hhigh, hlow⟩ := encodeFields_checksum_chars hr
  rw [encodeFields_sum hin hr] at hhigh hlow
  rcases idx_cases i with hfield | rfl | rfl | rfl | hsep
  · rw [codePosition_field _ _ _ hfield]
    exact .inr (encodeFields_field_char hin hr hfield)
  · exact .inr hhigh
  · exact .inr hlow
  · exact .inr (encodeFields_base_char hr)
  · exact .inl ⟨hsep, encodeFields_separator hr hsep⟩

/-- Under `WF` (a), reading the code back gives the code positions. -/
theorem positionOf_encodeFields_char (halphabet : c.AlphabetOk) {i : Idx} (hi : i ≠ 4 ∧ i ≠ 9 ∧ i ≠ 14) :
    positionOf c (r.chars i) = codePosition c r.base (workPosition c d.d4 l) i := by
  obtain ⟨hbase, -⟩ := encodeFields_range hr
  rcases encodeFields_char hin hr i with ⟨hsep, -⟩ | hchar
  · obtain ⟨h4, h9, h14⟩ := hi
    simp [h4, h9, h14] at hsep
  · exact positionOf_of_charOf_canonical halphabet (codePosition_le hbase (workPosition_le c d.d4 l) i) hchar

end

/-- The code is determined by the shift base and the work positions, under configurations with one alphabet and one
magic table. -/
theorem encodeFields_chars_eq {c c' : Cfg} {l l' : Latch} {d d' : Digits} {hm : Fin c.hmCount} {hm' : Fin c'.hmCount}
    {r r' : EncodeResult} (hin : EncodeInputsOk c l d hm) (hr : encodeFields c l = .ok r)
    (hin' : EncodeInputsOk c' l' d' hm') (hr' : encodeFields c' l' = .ok r') (halphabet : c'.alphabet = c.alphabet)
    (hmagic : c'.magic = c.magic) (hbase : r'.base = r.base)
    (hwork : ∀ i ∈ fieldIdx, workPosition c' d'.d4 l' i = workPosition c d.d4 l i) : r'.chars = r.chars := by
  have hcharOf (p : Nat) : charOf c' p = charOf c p := by simp only [charOf, halphabet]
  have hsum : (fieldIdx.map (workPosition c' d'.d4 l')).sum = (fieldIdx.map (workPosition c d.d4 l)).sum :=
    congrArg List.sum (List.map_congr_left hwork)
  have hposition (i : Idx) : codePosition c' r'.base (workPosition c' d'.d4 l') i =
      codePosition c r.base (workPosition c d.d4 l) i := by
    unfold codePosition
    split
    · next hi => rw [hwork i hi, hbase, offsetAt, offsetAt, hmagic]
    · rw [hsum, hbase]
  funext i
  rcases encodeFields_char hin hr i with ⟨hsep, hi⟩ | hchar
  · rw [hi, encodeFields_separator hr' hsep]
  · rcases encodeFields_char hin' hr' i with ⟨hsep, hi⟩ | hchar'
    · rw [hi, encodeFields_separator hr hsep]
    · rw [hcharOf, hposition, hchar] at hchar'
      exact (Except.ok.inj hchar').symm

/-- Settles O37: every code position is canonical. -/
theorem encodeWritesCanonicalCharactersOnly : Obligations.EncodeWritesCanonicalCharactersOnly := by
  unfold Obligations.EncodeWritesCanonicalCharactersOnly
  intro c l r i hr
  obtain ⟨d, hm, hin⟩ := encodeInputsOk_of_ok hr
  obtain ⟨hbase, -⟩ := encodeFields_range hr
  refine (encodeFields_char hin hr i).imp_right fun hchar => ?_
  have hle := codePosition_le (c := c) hbase (workPosition_le c d.d4 l) i
  rw [charOf_of_lt c (by omega)] at hchar
  exact ⟨⟨codePosition c r.base (workPosition c d.d4 l) i, by omega⟩, (Except.ok.inj hchar).symm⟩

/-! ### Two keys (44_shift.md) -/

/-- The checks of ENCODE do not read the key (46_commands.md R240, R241). -/
theorem encodeInputsOk_key {c : Cfg} {l : Latch} {d : Digits} {hm : Fin c.hmCount} (k k' : Word)
    (hin : EncodeInputsOk c { l with key := k } d hm) : EncodeInputsOk c { l with key := k' } d hm :=
  ⟨hin.codeType, hin.serial, hin.hardwareModel, hin.embedded⟩

/-- With a non-zero key the shift base is the reduced key (44_shift.md R182, R183). -/
theorem encodeFields_base_of_key {c : Cfg} {l : Latch} {d : Digits} {hm : Fin c.hmCount} {r : EncodeResult}
    (hin : EncodeInputsOk c l d hm) (hr : encodeFields c l = .ok r) (hkey : l.key ≠ 0) :
    reduce l.key.toNat = .ok r.base := by
  rw [← shiftBaseSum_of_key c c.ctConfigId hm d hkey]
  exact encodeFields_base hin hr

/-- Settles O36: the key reaches the code through the shift base only, and the code shows the shift base at 17. -/
theorem keysWithOneShiftBaseGiveOneCode : Obligations.KeysWithOneShiftBaseGiveOneCode := by
  unfold Obligations.KeysWithOneShiftBaseGiveOneCode
  intro c l k k' r r' halphabet hk hk' hr hr'
  obtain ⟨d, hm, hin⟩ := encodeInputsOk_of_ok hr
  have hin' := encodeInputsOk_key k k' hin
  have hbase : reduce k.toNat = .ok r.base := encodeFields_base_of_key hin hr hk
  have hbase' : reduce k'.toNat = .ok r'.base := encodeFields_base_of_key hin' hr' hk'
  have hsum : r.sum = r'.sum := (encodeFields_sum hin hr).trans (encodeFields_sum hin' hr').symm
  obtain ⟨hhigh, hlow⟩ := encodeFields_checksum_chars hr
  obtain ⟨hhigh', hlow'⟩ := encodeFields_checksum_chars hr'
  rw [← hsum] at hhigh' hlow'
  refine ⟨hsum, Except.ok.inj (hhigh.symm.trans hhigh'), Except.ok.inj (hlow.symm.trans hlow'), fun hchars => ?_,
    fun hreduce => ?_⟩
  · have hseventeen : r.base = r'.base :=
      calc r.base
        _ = positionOf c (r.chars 17) := (positionOf_encodeFields_char hin hr halphabet (i := 17) (by decide)).symm
        _ = positionOf c (r'.chars 17) := by rw [hchars]
        _ = r'.base := positionOf_encodeFields_char hin' hr' halphabet (i := 17) (by decide)
    rw [hbase, hbase', hseventeen]
  · rw [hbase, hbase'] at hreduce
    exact encodeFields_chars_eq hin' hr' hin hr rfl rfl (Except.ok.inj hreduce) fun _ _ => rfl

/-! ### Two seed tables (41_seed.md) -/

/-- Outside five indices the field mask covers every bit of a position (42_embed.md R144). -/
theorem fieldMask_five_bits (c : Cfg) {i : Idx} (hi : i ∈ fieldIdx) (hpartial : i ∉ ([1, 2, 3, 13, 15] : List Idx)) :
    fieldMask c i = 0x1F := by
  have hfull : ∀ i ∈ fieldIdx, i ∉ ([1, 2, 3, 13, 15] : List Idx) → i ∈ ([0, 5, 6, 10, 11, 12, 16, 18] : List Idx) := by
    decide
  have hmem := hfull i hi hpartial
  simp only [List.mem_cons, List.not_mem_nil, or_false] at hmem
  rcases hmem with rfl | rfl | rfl | rfl | rfl | rfl | rfl | rfl <;> rfl

/-- What of a seed position is embedded: its bits outside the mask (42_embed.md R143). -/
theorem embeddedPosition_eq (c : Cfg) (d4 : Fin 10) (l : Latch) (i : Idx) :
    embeddedPosition c d4 l i =
      (BitVec.ofNat 8 (canonAt c c.seed[d4][i]) &&& (0x1F &&& ~~~fieldMask c i)) ||| rawValue l i := by
  rw [embeddedPosition, BitVec.and_comm (~~~_), BitVec.and_assoc, BitVec.and_comm (~~~_)]

section
variable {c : Cfg} {seed : Vector (Vector Nat 19) 10} {l : Latch}

/-- Seed tables with the same bits outside the masks embed the same positions. -/
theorem embeddedPosition_congr_seed {d4 : Fin 10}
    (h : ∀ i ∈ ([1, 2, 3, 13, 15] : List Idx),
      BitVec.ofNat 8 (canonAt c c.seed[d4][i]) &&& (0x1F &&& ~~~fieldMask c i) =
        BitVec.ofNat 8 (canonAt c seed[d4][i]) &&& (0x1F &&& ~~~fieldMask c i)) {i : Idx} (hi : i ∈ fieldIdx) :
    embeddedPosition { c with seed := seed } d4 l i = embeddedPosition c d4 l i := by
  have hseed : embeddedPosition { c with seed := seed } d4 l i =
      (BitVec.ofNat 8 (canonAt c seed[d4][i]) &&& (0x1F &&& ~~~fieldMask c i)) ||| rawValue l i :=
    embeddedPosition_eq _ d4 l i
  rw [hseed, embeddedPosition_eq]
  by_cases hpartial : i ∈ ([1, 2, 3, 13, 15] : List Idx)
  · rw [h i hpartial]
  · have hnone : (0x1F : Byte) &&& ~~~0x1F = 0 := by decide
    rw [fieldMask_five_bits c hi hpartial, hnone]
    simp

/-- ENCODEs that embed the same positions and both succeed have the same result. -/
theorem encodeFields_congr_seed_ok {d : Digits} {hm : Fin c.hmCount} {r r' : EncodeResult}
    (hin : EncodeInputsOk c l d hm) (hr : encodeFields c l = .ok r)
    (hin' : EncodeInputsOk { c with seed := seed } l d hm) (hr' : encodeFields { c with seed := seed } l = .ok r')
    (hembed : ∀ i ∈ fieldIdx, embeddedPosition { c with seed := seed } d.d4 l i = embeddedPosition c d.d4 l i) :
    r' = r := by
  have hcanon (p : Nat) : canonAt { c with seed := seed } p = canonAt c p := rfl
  have hwork (i : Idx) (hi : i ∈ fieldIdx) :
      workPosition { c with seed := seed } d.d4 l i = workPosition c d.d4 l i := by
    rw [workPosition, hembed i hi, hcanon, workPosition]
  have hbase : r'.base = r.base := Except.ok.inj ((encodeFields_base hin' hr').symm.trans (encodeFields_base hin hr))
  have hsum : r'.sum = r.sum := by
    rw [encodeFields_sum hin' hr', encodeFields_sum hin hr, List.map_congr_left hwork]
  have hchars := encodeFields_chars_eq hin hr hin' hr' rfl rfl hbase hwork
  cases r
  cases r'
  exact congr (congr (congrArg EncodeResult.mk hchars) hsum) hbase

/-- ENCODEs of inputs that pass the checks up to the seed, and embed the same positions, are the same
(46_commands.md R242-R246). -/
theorem encodeFields_congr_seed {d : Digits} {hm : Fin c.hmCount} (hc : c.SeedOk)
    (hc' : { c with seed := seed }.SeedOk) (hcodeType : (lane l.fields 3).toNat = c.ctConfigId)
    (hserial : SerialIs l d) (hmodel : (lane l.fields 0).toNat = hm)
    (hembed : ∀ i ∈ fieldIdx, embeddedPosition { c with seed := seed } d.d4 l i = embeddedPosition c d.d4 l i) :
    encodeFields { c with seed := seed } l = encodeFields c l := by
  by_cases hgt : ∃ i ∈ fieldIdx, 34 < (embeddedPosition c d.d4 l i).toNat
  · have hgt' : ∃ i ∈ fieldIdx, 34 < (embeddedPosition { c with seed := seed } d.d4 l i).toNat := by
      obtain ⟨i, hi, hlt⟩ := hgt
      exact ⟨i, hi, hembed i hi ▸ hlt⟩
    rw [encodeFields_of_embeddedPosition_gt hcodeType hserial hmodel hc hgt]
    exact encodeFields_of_embeddedPosition_gt (hm := hm) hcodeType hserial hmodel hc' hgt'
  · push Not at hgt
    have hin : EncodeInputsOk c l d hm := ⟨hcodeType, hserial, hmodel, hgt⟩
    have hin' : EncodeInputsOk { c with seed := seed } l d hm :=
      ⟨hcodeType, hserial, hmodel, fun i hi => hembed i hi ▸ hgt i hi⟩
    by_cases hpre : shiftBaseSum c c.ctConfigId hm d l.key < 192
    · obtain ⟨r, hr⟩ := encodeFields_total hin hc hpre
      obtain ⟨r', hr'⟩ := encodeFields_total hin' hc' hpre
      rw [hr, hr', encodeFields_congr_seed_ok hin hr hin' hr' hembed]
    · rw [encodeFields_of_overflow hc hin (Nat.le_of_not_lt hpre)]
      exact encodeFields_of_overflow hc' hin' (Nat.le_of_not_lt hpre)

end

/-- Settles O38: the checks before the seed do not read it, and after it ENCODE reads the embedded positions. -/
theorem onlyUnmaskedSeedBitsReachTheCode : Obligations.OnlyUnmaskedSeedBitsReachTheCode := by
  unfold Obligations.OnlyUnmaskedSeedBitsReachTheCode
  intro c seed l hc hc' hbits
  by_cases hcodeType : (lane l.fields 3).toNat = c.ctConfigId
  · rcases serialDigits_cases l with herr | ⟨d, hserial, -⟩
    · rw [encodeFields_of_serial hcodeType herr]
      exact encodeFields_of_serial (c := { c with seed := seed }) hcodeType herr
    · by_cases hmodel : (lane l.fields 0).toNat < c.hmCount
      · refine encodeFields_congr_seed (hm := ⟨_, hmodel⟩) hc hc' hcodeType hserial rfl fun i hi => ?_
        obtain ⟨-, -, -, hd4⟩ := hserial
        exact embeddedPosition_congr_seed (fun j hj => hbits d.d4 j hd4 hj) hi
      · have hout := Or.inr (a := ∃ k < 4, 9 < (lane l.serial k).toNat) (Nat.le_of_not_lt hmodel)
        rw [encodeFields_of_out_of_range hcodeType hout]
        exact encodeFields_of_out_of_range (c := { c with seed := seed }) hcodeType hout
  · rw [encodeFields_of_codeType_ne hcodeType]
    exact encodeFields_of_codeType_ne (c := { c with seed := seed }) hcodeType

end Sys2Proof.Machine

/-! ## DECODE of a code ENCODE wrote (46_commands.md, "Round trip (derived)"; 43_checksum.md) -/

namespace Sys2Proof.Machine

/-! ### The raw array of a code ENCODE wrote -/

section
variable {c : Cfg} {l : Latch} {d : Digits} {hm : Fin c.hmCount} {r : EncodeResult} (halphabet : c.AlphabetOk)
  (hin : EncodeInputsOk c l d hm) (hr : encodeFields c l = .ok r)
include halphabet hin hr

/-- The inverse shift gives the work positions back (44_shift.md R189, R191). -/
theorem inverseShift_encodeFields_field {i : Idx} (hi : i ∈ fieldIdx) :
    inverseShift c r.chars i = workPosition c d.d4 l i := by
  have hsep : ∀ i ∈ fieldIdx, i ≠ 4 ∧ i ≠ 9 ∧ i ≠ 14 := by decide
  have hbase := positionOf_encodeFields_char hin hr halphabet (i := 17) (by decide)
  rw [inverseShift_field c r.chars hi, hbase, codePosition_seventeen,
    positionOf_encodeFields_char hin hr halphabet (hsep i hi), codePosition_field _ _ _ hi,
    unshift_shift _ (workPosition_le c d.d4 l i)]

/-- The sum of the raw array is the compose sum (43_checksum.md R162). -/
theorem sum_inverseShift_encodeFields : (fieldIdx.map (inverseShift c r.chars)).sum = r.sum := by
  rw [encodeFields_sum hin hr,
    List.map_congr_left fun i hi => inverseShift_encodeFields_field halphabet hin hr (i := i) hi]

/-- The checksum characters give the compose sum modulo 256 (43_checksum.md R161). -/
theorem checksum_inverseShift_encodeFields :
    16 * inverseShift c r.chars 7 + inverseShift c r.chars 8 = r.sum % 256 := by
  have hposition {i : Idx} (hi : i ∈ ([7, 8, 17] : List Idx)) (hsep : i ≠ 4 ∧ i ≠ 9 ∧ i ≠ 14) :
      inverseShift c r.chars i = codePosition c r.base (workPosition c d.d4 l) i := by
    rw [inverseShift_unshifted c r.chars hi, positionOf_encodeFields_char hin hr halphabet hsep]
  rw [hposition (i := 7) (by decide) (by decide), hposition (i := 8) (by decide) (by decide), codePosition_seven,
    codePosition_eight, ← encodeFields_sum hin hr]
  omega

theorem inverseShift_encodeFields_seventeen : inverseShift c r.chars 17 = r.base := by
  rw [inverseShift_seventeen, positionOf_encodeFields_char hin hr halphabet (by decide), codePosition_seventeen]

/-- A compose sum of 256 or more does not fit in the checksum (43_checksum.md R162). -/
theorem decodeCode_encodeFields_of_large_sum (hsum : 256 ≤ r.sum) :
    decodeCode c r.chars = .error .checksumMismatch := by
  refine decodeCode_of_sum_ne rfl ?_
  rw [sum_inverseShift_encodeFields halphabet hin hr, checksum_inverseShift_encodeFields halphabet hin hr]
  omega

end

/-! ### The completions -/

/-- Behind a completion of ENCODE that reports no error stands a result, which it wrote. -/
theorem exec_encode_eq_ok {s t : State} {r : BitVec 30} (hturn : s.turn = some .engine)
    (h : exec (.encode r) s = .next t) (herr : t.status.err = false) :
    ∃ res, encodeFields s.cfg s.latch = .ok res ∧ t = completeOk (writeEncodeOutputs res s) := by
  cases hres : encodeFields s.cfg s.latch with
  | ok res => exact ⟨res, rfl, Host.Outcome.next.inj (h.symm.trans (exec_encode_of_ok r hturn hres))⟩
  | error e =>
    obtain rfl := Host.Outcome.next.inj ((exec_encode_of_error r hturn hres).symm.trans h)
    cases herr

/-- The latched code is the one that ENCODE wrote. -/
theorem char_codeOf_of_written {s t : State} {l : Latch} {res : EncodeResult}
    (ht : t = completeOk (writeEncodeOutputs res s)) (hcode : codeOf l = t.code) : (codeOf l).char = res.chars := by
  rw [hcode, ht, completeOk_code, writeEncodeOutputs_code, char_ofChars]

/-- Settles O45: the sum of the raw array is the compose sum, and the checksum gives less than 256. -/
theorem codesWithLargeSumsNeverVerify : Obligations.CodesWithLargeSumsNeverVerify := by
  unfold Obligations.CodesWithLargeSumsNeverVerify
  intro r q s t u ⟨_, halphabet, _⟩ hturn h herr hsum huturn hcfg hcode
  obtain ⟨res, hres, ht⟩ := exec_encode_eq_ok hturn h herr
  obtain ⟨d, hm, hin⟩ := encodeInputsOk_of_ok hres
  obtain ⟨-, hsum_le⟩ := encodeFields_range hres
  have hsum_eq : t.eInfo.sum.toNat = res.sum := by
    rw [ht]
    exact toNat_sumField hsum_le
  have hdecode := decodeCode_encodeFields_of_large_sum halphabet hin hres (hsum_eq ▸ hsum)
  rw [← hcfg, ← char_codeOf_of_written ht hcode] at hdecode
  exact exec_decode_of_error q huturn hdecode

/-! ### Values within their masks -/

/-- Under `WF` (c) every field mask is some low bits of five (42_embed.md R144). -/
theorem fieldMask_low_bits {c : Cfg} (hmodel : c.HardwareModelOk) {i : Idx} (hi : i ∈ fieldIdx) :
    ∃ n ≤ 5, (fieldMask c i).toNat = 2 ^ n - 1 := by
  by_cases hpartial : i ∈ ([1, 2, 3, 13, 15] : List Idx)
  · obtain ⟨⟨n, hn, hmask⟩, -⟩ := hmodel
    have hle : ∀ n ∈ [1, 2, 3, 4, 5], n ≤ 5 := by decide
    simp only [List.mem_cons, List.not_mem_nil, or_false] at hpartial
    rcases hpartial with rfl | rfl | rfl | rfl | rfl
    exacts [⟨n, hle n hn, hmask⟩, ⟨2, by decide, rfl⟩, ⟨2, by decide, rfl⟩, ⟨2, by decide, rfl⟩, ⟨2, by decide, rfl⟩]
  · rw [fieldMask_five_bits c hi hpartial]
    exact ⟨5, le_rfl, rfl⟩

/-- A value at most a mask of low bits is under that mask. -/
theorem and_low_bits {mask raw : Byte} {n : Nat} (hmask : mask.toNat = 2 ^ n - 1) (hraw : raw.toNat ≤ mask.toNat) :
    raw &&& mask = raw := by
  apply BitVec.eq_of_toNat_eq
  have hpos := Nat.two_pow_pos n
  rw [BitVec.toNat_and, hmask, Nat.and_two_pow_sub_one_eq_mod, Nat.mod_eq_of_lt (by omega)]

/-- A value under a mask can be read back after it is merged with bits outside the mask (42_embed.md R143). -/
theorem merge_and_mask {mask raw : Byte} (x : Byte) (hraw : raw &&& mask = raw) :
    ((~~~mask &&& x &&& 0x1F) ||| raw) &&& mask = raw := by
  apply BitVec.eq_of_getLsbD_eq
  intro k hk
  have hbit : (raw.getLsbD k && mask.getLsbD k) = raw.getLsbD k := by rw [← BitVec.getLsbD_and, hraw]
  simp only [BitVec.getLsbD_and, BitVec.getLsbD_or, BitVec.getLsbD_not, hk, decide_true, Bool.true_and]
  cases hm : mask.getLsbD k <;> simp_all

/-- A canonical position merged with a value of five bits has five bits. -/
theorem merge_le {mask raw : Byte} (x : Byte) (hraw : raw.toNat ≤ 31) :
    ((~~~mask &&& x &&& 0x1F) ||| raw).toNat ≤ 31 := by
  have hseed : (~~~mask &&& x &&& 0x1F).toNat ≤ 31 := by
    rw [BitVec.toNat_and]
    exact Nat.and_le_right
  rw [BitVec.toNat_or]
  exact Nat.le_of_lt_succ (Nat.or_lt_two_pow (n := 5) (Nat.lt_succ_of_le hseed) (Nat.lt_succ_of_le hraw))

section
variable {c : Cfg} {l : Latch} {d : Digits} {hm : Fin c.hmCount} (hin : EncodeInputsOk c l d hm)
  (hmodel : c.HardwareModelOk) (hwithin : WithinMasks c l)
include hin hwithin

/-- Values within their masks, digits and the configuration code type all fit in the field masks (42_embed.md R144). -/
theorem rawValue_le_fieldMask {i : Idx} (hi : i ∈ fieldIdx) : (rawValue l i).toNat ≤ (fieldMask c i).toNat := by
  obtain ⟨hhm, henv, hspd, hm0, hm1, hm2, hm3, hversion⟩ := hwithin
  have hdigit {k : Nat} (hk : k < 4) : (lane l.serial k).toNat ≤ 31 :=
    (lane_le_of_serialIs hin.serial k hk).trans (by decide)
  have hcodeType : (lane l.fields 3).toNat ≤ 3 := by
    have hid := c.ctConfigId.isLt
    rw [hin.codeType]
    omega
  simp only [fieldIdx, List.mem_cons, List.not_mem_nil, or_false] at hi
  rcases hi with rfl | rfl | rfl | rfl | rfl | rfl | rfl | rfl | rfl | rfl | rfl | rfl | rfl
  exacts [hdigit (by decide), hhm, henv, hspd, hm0, hdigit (by decide), hm1, hm2, hdigit (by decide), hversion,
    hcodeType, hm3, hdigit (by decide)]

include hmodel

/-- A value within its mask is under it. -/
theorem rawValue_and_fieldMask {i : Idx} (hi : i ∈ fieldIdx) : rawValue l i &&& fieldMask c i = rawValue l i := by
  obtain ⟨n, -, hmask⟩ := fieldMask_low_bits hmodel hi
  exact and_low_bits hmask (rawValue_le_fieldMask hin hwithin hi)

/-- The embedded position of a value within its mask is canonical. -/
theorem embeddedPosition_le {i : Idx} (hi : i ∈ fieldIdx) : (embeddedPosition c d.d4 l i).toNat ≤ 31 := by
  obtain ⟨n, hn, hmask⟩ := fieldMask_low_bits hmodel hi
  have hpow : 2 ^ n ≤ 2 ^ 5 := Nat.pow_le_pow_right (by decide) hn
  have hraw := rawValue_le_fieldMask hin hwithin hi
  exact merge_le _ (by omega)

variable {r : EncodeResult} (halphabet : c.AlphabetOk) (hr : encodeFields c l = .ok r)
include halphabet hr

/-- The masked lane of a field gives the encoded value back (46_commands.md R253). -/
theorem maskedLane_encodeFields {i : Idx} (hi : i ∈ fieldIdx) :
    maskedLane c (inverseShift c r.chars) i = rawValue l i := by
  have hlane : rawLane (inverseShift c r.chars) i = embeddedPosition c d.d4 l i := by
    rw [rawLane, inverseShift_encodeFields_field halphabet hin hr hi, workPosition,
      canonAt_of_le halphabet (embeddedPosition_le hin hmodel hwithin hi), BitVec.ofNat_toNat, BitVec.setWidth_eq]
  rw [maskedLane, hlane]
  exact merge_and_mask _ (rawValue_and_fieldMask hin hmodel hwithin hi)

/-- A lane of five bits needs no mask (42_embed.md R144). -/
theorem rawLane_encodeFields {i : Idx} (hi : i ∈ fieldIdx) (hmask : fieldMask c i = 0x1F) :
    rawLane (inverseShift c r.chars) i = rawValue l i := by
  have hle := inverseShift_le c r.chars
  rw [← maskedLane_encodeFields hin hmodel hwithin halphabet hr hi, maskedLane, hmask]
  exact (and_low_bits (mask := 0x1F) (n := 5) rfl ((toNat_rawLane hle i).trans_le (hle i))).symm

/-- A compose sum below 256 verifies, and the code type is the encoded one, so DECODE succeeds (46_commands.md R250). -/
theorem decodeCode_encodeFields (hcodeType : c.CodeTypeOk) (hindex : c.ctCheckIndex = 15)
    (hcheck : c.ctCheckMask = 0x03) (hsum : r.sum ≤ 255) : decodeCode c r.chars = .ok { raw := inverseShift c r.chars, sum := r.sum } := by
  have hsum_eq := sum_inverseShift_encodeFields halphabet hin hr
  have hknown : inverseShift c r.chars 15 &&& (fieldMask c 15).toNat ∈ c.ctKnown := by
    rw [← toNat_maskedLane (inverseShift_le c r.chars),
      maskedLane_encodeFields hin hmodel hwithin halphabet hr (by decide)]
    exact hin.codeType ▸ hcodeType
  rw [← hsum_eq]
  refine decodeCode_of_checks rfl ?_ ?_
  · rw [hsum_eq, checksum_inverseShift_encodeFields halphabet hin hr, Nat.mod_eq_of_lt (by omega)]
  · rw [hindex, hcheck]
    exact hknown

/-- What DECODE writes is the encoded record, with the shift base as the key (46_commands.md R253, R254, R256). -/
theorem writeDecodeOutputs_encodeFields {u : State} (hcfg : u.cfg = c) :
    writeDecodeOutputs { raw := inverseShift c r.chars, sum := r.sum } u = { u with
      dSerial := l.serial, dFields := l.fields, dMaterial := l.material
      dVersion := { ver := l.version, key := BitVec.ofNat 8 r.base }
      dCheck := { checksum1 := rawLane (inverseShift c r.chars) 7, checksum2 := rawLane (inverseShift c r.chars) 8
                  sum := BitVec.ofNat 16 r.sum } } := by
  have hbase : rawLane (inverseShift c r.chars) 17 = BitVec.ofNat 8 r.base := by
    rw [rawLane, inverseShift_encodeFields_seventeen halphabet hin hr]
  have hlane (i : Idx) (hi : i ∈ fieldIdx) (hmask : fieldMask c i = 0x1F) :=
    rawLane_encodeFields hin hmodel hwithin halphabet hr hi hmask
  have hmasked (i : Idx) (hi : i ∈ fieldIdx) := maskedLane_encodeFields hin hmodel hwithin halphabet hr hi
  rw [writeDecodeOutputs]
  simp only [hcfg, hbase]
  rw [hlane 18 (by decide) rfl, hlane 12 (by decide) rfl, hlane 6 (by decide) rfl, hlane 0 (by decide) rfl,
    hlane 16 (by decide) rfl, hlane 11 (by decide) rfl, hlane 10 (by decide) rfl, hlane 5 (by decide) rfl,
    hmasked 15 (by decide), hmasked 3 (by decide), hmasked 2 (by decide), hmasked 1 (by decide),
    hmasked 13 (by decide), ← word4_lanes l.serial, ← word4_lanes l.fields, ← word4_lanes l.material]
  rfl

end

/-- Settles O44: the raw array holds the work positions, each lane gives its value back, and a word is its lanes. -/
theorem decodeReturnsWhatEncodeWrote : Obligations.DecodeReturnsWhatEncodeWrote := by
  unfold Obligations.DecodeReturnsWhatEncodeWrote
  intro r q s t u ⟨_, halphabet, _, hmodel, hcodeType⟩ hindex hcheck hturn h herr hwithin hsum huturn hcfg hcode
  obtain ⟨res, hres, ht⟩ := exec_encode_eq_ok hturn h herr
  obtain ⟨d, hm, hin⟩ := encodeInputsOk_of_ok hres
  obtain ⟨-, hsum_le⟩ := encodeFields_range hres
  have heInfo : t.eInfo = { shiftBase := BitVec.ofNat 8 res.base, sum := BitVec.ofNat 16 res.sum } := by
    rw [ht]
    rfl
  have hsum' : res.sum ≤ 255 := by
    rw [heInfo] at hsum
    exact (toNat_sumField hsum_le).symm.trans_le hsum
  have hdecode : decodeCode u.cfg (codeOf u.latch).char =
      .ok { raw := inverseShift s.cfg res.chars, sum := res.sum } := by
    rw [hcfg, char_codeOf_of_written ht hcode]
    exact decodeCode_encodeFields hin hmodel hwithin halphabet hres hcodeType hindex hcheck hsum'
  have hstep := exec_decode_of_ok q huturn hdecode
  rw [writeDecodeOutputs_encodeFields hin hmodel hwithin halphabet hres hcfg] at hstep
  rw [heInfo]
  exact ⟨_, hstep, rfl, rfl, rfl, rfl, rfl, rfl, rfl⟩

end Sys2Proof.Machine
